-- ==== Sys2Proof/Word.lean ====
section
/-!
DEFINITION. The word types of the machine: every value is an unsigned number of a stated width (R10).
-/
namespace Sys2Proof

/-- An 8-bit value: a general register, a timer, a memory byte (R20, R26, R29). -/
abbrev Byte := BitVec 8

/-- A 16-bit value: the instruction word, `I`, `PC`, a stack slot (R22, R23, R24, R90). -/
abbrev Word := BitVec 16

/-- A 4-bit field: a register index, a key index, a sprite height (R91, R92). -/
abbrev Nibble := BitVec 4

/-- A 12-bit immediate address `nnn` (R91, R93). -/
abbrev Addr := BitVec 12

end Sys2Proof
end

