-- ==== Sys2Proof/Config.lean ====
section
/-!
DEFINITION. What an implementation fixes (the open parameters of 00_scope.md R7) and the one free
value (the random byte of R124). A configuration is plain data carried in the state's field `cfg`,
which no step writes (R37; log entry 1), so that a claim may fix one or quantify over all.
-/
namespace Sys2Proof

/-- `Q_SHIFT_SRC` (R7, D7): the register that `8xy6` and `8xyE` shift. -/
inductive ShiftSrc where
  | vx
  | vy
  deriving DecidableEq, Repr

/-- `Q_MEM_INC` (R7, D8): what `Fx55` and `Fx65` do to `I`. -/
inductive MemInc where
  | unchanged
  | xPlus1
  deriving DecidableEq, Repr

/-- `Q_FX1E_CARRY` (R7, D9): whether `Fx1E` writes VF. -/
inductive IndexCarry where
  | off
  | on
  deriving DecidableEq, Repr

/-- `Q_SPRITE_EDGE` (R7, D10): what becomes of sprite pixels past the right or bottom edge. -/
inductive SpriteEdge where
  | clip
  | wrap
  deriving DecidableEq, Repr

/-- The open parameters of R7 (`ROM` is the argument of `loadProgram`, R46). -/
structure Config where
  /-- `STACK_CAPACITY`, at least 12 (D5). -/
  stackCapacity : Nat
  /-- `FONT_BASE`, with `FONT_BASE + 80 <= 512` (D6). -/
  fontBase : Nat
  /-- `FONT`, 80 bytes (D6, R33). -/
  font : Vector Byte 80
  shiftSrc : ShiftSrc
  memInc : MemInc
  indexCarry : IndexCarry
  spriteEdge : SpriteEdge
  deriving DecidableEq, Repr

/-- The legal values of the parameters (the second column of R7's table). -/
abbrev Config.wf (c : Config) : Prop := 12 ≤ c.stackCapacity ∧ c.fontBase + 80 ≤ 512

/-- The free value of R124: the environment's `n`-th random byte. It has no body that a proof can see:
a claim about it holds for every sequence of draws (log entry 3). -/
opaque Config.randomByte (n : Nat) : Byte

end Sys2Proof
end

