-- ==== Sys2Proof/Machine/Profile.lean ====
section
/-!
DEFINITION. The reference values of the open parameters (the column of 00_scope.md R7), used by
State.reset only. DESIGN CHOICE (log entry 1): the spec leaves every one of them open. The font bytes
are PRESUMED (log entry 2): R33 gives them from general knowledge.
-/
namespace Sys2Proof.Machine

/-- Glyphs 0 to 3 of R33. -/
def fontGlyphs0 : List Byte :=
  [0xF0, 0x90, 0x90, 0x90, 0xF0, 0x20, 0x60, 0x20, 0x20, 0x70,
   0xF0, 0x10, 0xF0, 0x80, 0xF0, 0xF0, 0x10, 0xF0, 0x10, 0xF0]

/-- Glyphs 4 to 7 of R33. -/
def fontGlyphs4 : List Byte :=
  [0x90, 0x90, 0xF0, 0x10, 0x10, 0xF0, 0x80, 0xF0, 0x10, 0xF0,
   0xF0, 0x80, 0xF0, 0x90, 0xF0, 0xF0, 0x10, 0x20, 0x40, 0x40]

/-- Glyphs 8 to B of R33. -/
def fontGlyphs8 : List Byte :=
  [0xF0, 0x90, 0xF0, 0x90, 0xF0, 0xF0, 0x90, 0xF0, 0x10, 0xF0,
   0xF0, 0x90, 0xF0, 0x90, 0x90, 0xE0, 0x90, 0xE0, 0x90, 0xE0]

/-- Glyphs C to F of R33. -/
def fontGlyphsC : List Byte :=
  [0xF0, 0x80, 0x80, 0x80, 0xF0, 0xE0, 0x90, 0x90, 0x90, 0xE0,
   0xF0, 0x80, 0xF0, 0x80, 0xF0, 0xF0, 0x80, 0xF0, 0x80, 0x80]

/-- The reference `FONT` of R33, 80 bytes, glyph `d` at index `5 * d`. -/
def referenceFont : Vector Byte 80 :=
  ⟨(fontGlyphs0 ++ fontGlyphs4 ++ fontGlyphs8 ++ fontGlyphsC).toArray, rfl⟩

/-- `PROFILE_TABLE` with `STACK_CAPACITY = 12` and `FONT_BASE = 0` (R7; 92_eei_decisions.md). -/
def referenceConfig : Config where
  stackCapacity := 12
  fontBase := 0
  font := referenceFont
  shiftSrc := .vx
  memInc := .unchanged
  indexCarry := .off
  spriteEdge := .clip

end Sys2Proof.Machine
end

