-- ==== Sys2Proof/Machine/State.lean ====
section
/-!
DEFINITION. The state of the machine (10_state.md R20 to R32), its reset value (R38), and the reasons a
step can stop. State is plain data.
-/
namespace Sys2Proof.Machine

/-- `HALT_CAUSE` (R31): the five values it can hold; 5 to 7 never occur, so they have no constructor
(log entry 5). -/
inductive HaltCause where
  /-- 0: not halted -/
  | running
  /-- 1 (R240) -/
  | unknownOpcode
  /-- 2 (R241) -/
  | stackOverflow
  /-- 3 (R242) -/
  | stackUnderflow
  /-- 4 (R243) -/
  | outOfBoundsAddress
  deriving DecidableEq, Repr

/-- Memory, `MEM[0..4095]` (R29), as the list of the bytes that differ from what memory holds after
reset: addresses strictly rising, no entry equal to what an unlisted address reads as. -/
abbrev Memory := List Host.Cell

/-- The display buffer `FB` (R28): row `py` is entry `py`, the pixel in column `px` is bit `px` of it
(log entry 14). -/
abbrev Framebuffer := Vector (BitVec 64) 32

/-- The machine state: R32's record, and three fields of the model's own (`cfg`, `draws`, `drawCount`). -/
structure State where
  /-- The open parameters (R7, R37); the model's own field, written by nothing (log entry 1). -/
  cfg : Config
  /-- `V[0..15]` (R20) -/
  v : Vector Byte 16
  /-- The index register `I` (R22) -/
  i : Word
  /-- `PC` (R23) -/
  pc : Word
  /-- `SP`, the depth of the stack (R25) -/
  sp : Nat
  /-- `STACK[0..STACK_CAPACITY-1]`, slot `k` at position `k` (R24; log entry 6) -/
  stack : List Word
  /-- The delay timer `DT` (R26) -/
  dt : Byte
  /-- The sound timer `ST` (R26) -/
  st : Byte
  /-- `KEY[0..15]`, true is pressed (R27) -/
  key : Vector Bool 16
  /-- `FB` (R28) -/
  fb : Framebuffer
  /-- `MEM` (R29) -/
  mem : Memory
  /-- `HALT_CAUSE` (R31) -/
  haltCause : HaltCause
  /-- `HALT_PC` (R31) -/
  haltPc : Word
  /-- `HALT_INFO` (R31) -/
  haltInfo : Word
  /-- Random bytes `r` the environment has already chosen for coming draws (R41, R124); the model's own
  field (log entry 3). -/
  draws : List Byte
  /-- How many free random bytes have been drawn (R124); the model's own field (log entry 3). -/
  drawCount : Nat
  deriving DecidableEq, Repr

/-- Why the machine stops with a fault. The spec's four fatal conditions are NOT here: R244 describes
the transition they take, and the model takes it (a next state with `haltCause` set). -/
inductive Fault where
  /-- Raised by `2nnn` and `00EE` when the stack slot they name does not exist, which needs a state
  with more than `STACK_CAPACITY` entries or too few slots: no run reaches one (Safety's `StateInv`).
  Safe: it stops where the spec says nothing (log entry 6). -/
  | noStackSlot
  deriving DecidableEq, Repr

/-- Why the model gives an instruction or a host event no transition. -/
inductive Refusal where
  /-- Raised by an arm of exec whose instruction has no meaning yet; no arm is one. Safe. -/
  | notModelled (mnemonic : String)
  /-- Raised by the event `loadProgram` for an image over 3584 bytes (R46, U14). Safe: the spec gives
  the event no transition. -/
  | imageTooLong
  /-- Raised by the event `loadProgram` in a state that is not the one right after reset (R46, U14).
  Safe: the spec gives the event no transition. -/
  | loadNotAfterReset
  /-- Raised by the events `setKey` and `keyState` for an index above 15 (R43, R44, U15). Safe: the
  spec gives the event no transition. -/
  | keyIndexOutOfRange
  deriving DecidableEq, Repr

/-- The state after `reset()` on a machine of configuration `c` (the middle column of R38's table):
memory lists nothing, since an unlisted address reads as its reset contents. -/
def State.resetWith (c : Config) : State where
  cfg := c
  v := Vector.replicate 16 0
  i := 0
  pc := 512
  sp := 0
  stack := List.replicate c.stackCapacity 0
  dt := 0
  st := 0
  key := Vector.replicate 16 false
  fb := Vector.replicate 32 0
  mem := []
  haltCause := .running
  haltPc := 0
  haltInfo := 0
  draws := []
  drawCount := 0

/-- The machine right after reset, with the reference values of the open parameters (log entry 1). -/
def State.reset : State := State.resetWith referenceConfig

end Sys2Proof.Machine
end

