-- ==== Sys2Proof/Machine/Memory.lean ====
section
/-!
DEFINITION. Memory as a canonical list of cells (20_memory.md R60, R61, R77).
-/
namespace Sys2Proof.Machine

/-- `MEM_SIZE` (R6). -/
def memSize : Nat := 4096

/-- `PROGRAM_BASE` (R6). -/
def programBase : Nat := 512

/-- What an address that is not listed reads as: its contents after reset (R38, R61), the font at
`FONT_BASE` and zero elsewhere. -/
def initByte (c : Config) (a : Nat) : Byte :=
  if h : c.fontBase ≤ a ∧ a < c.fontBase + 80 then c.font[a - c.fontBase]'(by omega) else 0

/-- The listed byte of an address, if it is listed. -/
def Memory.find : Memory → Nat → Option Byte
  | [], _ => none
  | (k, b) :: m, a => if k = a then some b else Memory.find m a

/-- The byte at an address (R60). -/
def Memory.read (c : Config) (m : Memory) (a : Nat) : Byte := (m.find a).getD (initByte c a)

/-- List a byte at its place in the rising order. -/
def Memory.put : Memory → Nat → Byte → Memory
  | [], a, b => [(a, b)]
  | (k, d) :: m, a, b =>
    if a < k then (a, b) :: (k, d) :: m
    else if a = k then (a, b) :: m
    else (k, d) :: Memory.put m a b

/-- Take an address off the list. -/
def Memory.drop : Memory → Nat → Memory
  | [], _ => []
  | (k, d) :: m, a => if k = a then Memory.drop m a else (k, d) :: Memory.drop m a

/-- Write one byte; an address above 4095 is not allocated (R77) and holds nothing. -/
def Memory.write (c : Config) (m : Memory) (a : Nat) (b : Byte) : Memory :=
  if a < memSize then (if b = initByte c a then m.drop a else m.put a b) else m

/-- Write successive bytes at ascending addresses (R67). -/
def Memory.writeList (c : Config) : Memory → Nat → List Byte → Memory
  | m, _, [] => m
  | m, a, b :: bs => Memory.writeList c (Memory.write c m a b) (a + 1) bs

/-- A listed cell is an allocated one that differs from its reset contents. -/
abbrev cellOk (c : Config) (e : Host.Cell) : Prop := e.1 < memSize ∧ e.2 ≠ initByte c e.1

/-- The canonical form: addresses strictly rising, each cell allocated and differing from what an
unlisted address reads as. -/
abbrev Memory.wf (c : Config) (m : Memory) : Prop :=
  m.Pairwise (fun e f => e.1 < f.1) ∧ ∀ e ∈ m, cellOk c e

end Sys2Proof.Machine
end

