-- ==== Sys2Proof/Machine/Ops.lean ====
section
/-!
DEFINITION. The named operations on the state: registers, memory, stack, the random draw, and `raise`,
which is what taking an exception is on this machine (60_exceptions.md R244). There is no return from
an exception: a halted core leaves that state by reset only (R245).
-/
namespace Sys2Proof.Machine

/-- What an instruction's meaning answers. -/
abbrev Result := Host.Outcome State Fault Refusal

/-- Read `V[x]` (R11). -/
def State.getV (s : State) (x : Nibble) : Byte := s.v[x.toNat]'x.isLt

/-- Write `V[x]` (R11); V0 is an ordinary register (R20). -/
def State.setV (s : State) (x : Nibble) (b : Byte) : State :=
  { s with v := s.v.set x.toNat b x.isLt }

/-- The index of the flag register VF (R21). -/
def vf : Nibble := 0xF

/-- Write `I` (R22). -/
def State.setI (s : State) (w : Word) : State := { s with i := w }

/-- Write `PC` (R23): any value may be written, the range is checked at the next fetch (R65, R139). -/
def State.setPc (s : State) (w : Word) : State := { s with pc := w }

/-- `npc = PC + 2` (R121). -/
def State.npc (s : State) : Word := s.pc + 2

/-- `PC <- npc`, the ordinary end of an instruction (R121). -/
def State.advance (s : State) : State := s.setPc s.npc

/-- The end of a skip instruction (R138): `PC <- npc + 2` when it is taken, else `PC <- npc`. -/
def State.skipWhen (s : State) (taken : Bool) : State :=
  if taken then s.setPc (s.npc + 2) else s.advance

/-- Write `DT` (R26). -/
def State.setDt (s : State) (b : Byte) : State := { s with dt := b }

/-- Write `ST` (R26). -/
def State.setSt (s : State) (b : Byte) : State := { s with st := b }

/-- Write the whole display buffer (R28). -/
def State.setFb (s : State) (f : Framebuffer) : State := { s with fb := f }

/-- The byte of memory at an address (R60). -/
def State.readByte (s : State) (a : Nat) : Byte := s.mem.read s.cfg a

/-- The `n` bytes at `a, a+1, ...` (MemRead of R11, one byte an item). -/
def State.readBytes (s : State) (a : Nat) : Nat → List Byte
  | 0 => []
  | n + 1 => s.readByte a :: s.readBytes (a + 1) n

/-- Store bytes at `a, a+1, ...` (MemWrite of R11). -/
def State.writeBytes (s : State) (a : Nat) (bs : List Byte) : State :=
  { s with mem := Memory.writeList s.cfg s.mem a bs }

/-- `max(a, 4096)`, the first out-of-range address of an access that starts at `a` (R64, R65). -/
def firstBad (a : Word) : Word := if a.toNat < memSize then 4096 else a

/-- Taking an exception, `raise E(info)` (R244): the cause, the address of the instruction and the
diagnostic are recorded, and nothing else changes. -/
def State.raise (s : State) (c : HaltCause) (info : Word) : State :=
  { s with haltCause := c, haltPc := s.pc, haltInfo := info }

/-- The range rule for an access to the `k` bytes at `a` (R64): no wrap, and nothing to check when
`k = 0`. -/
abbrev InRange (a : Word) (k : Nat) : Prop := k = 0 ∨ a.toNat + k - 1 ≤ 4095

/-- An instruction that accesses the `k` bytes at `I` checks the whole range before it does anything
(R64, R70, R181). -/
def guardRange (s : State) (k : Nat) (body : State) : Result :=
  if InRange s.i k then .next body else .next (s.raise .outOfBoundsAddress (firstBad s.i))

/-- Push a return address into slot `SP` (R24, R131); none where that slot does not exist. -/
def State.push (s : State) (w : Word) : Option State :=
  if s.sp < s.stack.length then some { s with stack := s.stack.set s.sp w, sp := s.sp + 1 }
  else none

/-- Pop slot `SP - 1` into `PC`; the slot keeps its value (R24, R132). None where it does not exist. -/
def State.popPc (s : State) : Option State :=
  match s.stack[s.sp - 1]? with
  | some w => some { s with pc := w, sp := s.sp - 1 }
  | none => none

/-- The random byte `r` of the next draw (R124): the one the environment has chosen, else a free value. -/
def State.nextDraw (s : State) : Byte :=
  match s.draws with
  | r :: _ => r
  | [] => Config.randomByte s.drawCount

/-- The draw has been made. -/
def State.consumeDraw (s : State) : State :=
  match s.draws with
  | _ :: rs => { s with draws := rs }
  | [] => { s with drawCount := s.drawCount + 1 }

/-- The code of a halt cause in `HALT_CAUSE`, 3 bits (R31). -/
def HaltCause.code : HaltCause → BitVec 3
  | .running => 0
  | .unknownOpcode => 1
  | .stackOverflow => 2
  | .stackUnderflow => 3
  | .outOfBoundsAddress => 4

end Sys2Proof.Machine
end

