-- ==== Sys2Proof/Machine/Operands.lean ====
section
/-!
DEFINITION. The operand forms (30_encoding.md R93): immediates are zero-extended; the implicit operands
are the shift source, the key index, the glyph address and the register range `V[0..x]`.
-/
namespace Sys2Proof.Machine

/-- A 12-bit immediate in a 16-bit register or sum (R93). -/
def zextAddr (nnn : Addr) : Word := nnn.setWidth 16

/-- A byte in a 16-bit sum (R133, R184). -/
def zextByte (b : Byte) : Word := b.setWidth 16

/-- The shift source of `8xy6` and `8xyE` (R159, R161). -/
def State.shiftOperand (s : State) (x y : Nibble) : Byte :=
  match s.cfg.shiftSrc with
  | .vx => s.getV x
  | .vy => s.getV y

/-- The low four bits of a register value: the key index of R231 and the digit of R185. -/
def lowNibble (b : Byte) : Nibble := b.extractLsb' 0 4

/-- The address of the glyph of digit `d`, `FONT_BASE + 5 * d` (R185). -/
def glyphAddress (c : Config) (d : Nibble) : Word := BitVec.ofNat 16 (c.fontBase + 5 * d.toNat)

/-- The values of `V[0] .. V[x]` (R187). -/
def State.regsUpTo (s : State) (x : Nibble) : List Byte := s.v.toList.take (x.toNat + 1)

/-- The number of bytes `Fx55` and `Fx65` move, `x + 1` (R64). -/
def regCount (x : Nibble) : Nat := x.toNat + 1

/-- `V[k] <- MEM[I + k]` for `k = 0 .. x`, the other registers kept (R188). -/
def State.loadRegs (s : State) (x : Nibble) : State :=
  { s with v := Vector.ofFn fun k : Fin 16 =>
      if k.val ≤ x.toNat then s.readByte (s.i.toNat + k.val) else s.v[k.val]'k.isLt }

/-- The post-increment of `I` by `Q_MEM_INC` (R187, R188, R190). -/
def State.postIncI (s : State) (x : Nibble) : State :=
  match s.cfg.memInc with
  | .unchanged => s
  | .xPlus1 => s.setI (s.i + BitVec.ofNat 16 (x.toNat + 1))

/-- The decimal digits of a byte, hundreds first (R186). -/
def bcdDigits (b : Byte) : List Byte :=
  [BitVec.ofNat 8 (b.toNat / 100), BitVec.ofNat 8 (b.toNat / 10 % 10), BitVec.ofNat 8 (b.toNat % 10)]

end Sys2Proof.Machine
end

