-- ==== Sys2Proof/Machine/Flags.lean ====
section
/-!
DEFINITION. The flag computations (10_state.md R21; 42_alu.md R150, R157 to R163; R184): each gives the
pair (flag, result) from operands sampled at the start of the step.
-/
namespace Sys2Proof.Machine

/-- A flag as VF holds it: 1 or 0 (R21). -/
def flagByte (b : Bool) : Byte := if b then 1 else 0

/-- Add: the flag is the carry out (R157). -/
def addFlags (a b : Byte) : Byte × Byte :=
  (flagByte (decide (255 < a.toNat + b.toNat)), BitVec.ofNat 8 ((a.toNat + b.toNat) % 256))

/-- `a - b`: the flag is 1 when no borrow occurs (R158, R163). -/
def subFlags (a b : Byte) : Byte × Byte := (flagByte (decide (b.toNat ≤ a.toNat)), a - b)

/-- Shift right by one: the flag is the bit shifted out (R159). -/
def shrFlags (a : Byte) : Byte × Byte := (flagByte (a.getLsbD 0), a >>> 1)

/-- Shift left by one: the flag is the bit shifted out (R161). -/
def shlFlags (a : Byte) : Byte × Byte := (flagByte (a.getLsbD 7), a <<< 1)

/-- The two writes of a flag-producing instruction: VF first, `V[x]` last, so that with `x = 15` the
result remains (R150). -/
def State.writeFlagResult (s : State) (x : Nibble) (fr : Byte × Byte) : State :=
  (s.setV vf fr.1).setV x fr.2

/-- The write of VF by `Fx1E`: none under `OFF`; under `ON` whether the sum leaves 0..4095 (R184). -/
def State.writeIndexFlag (s : State) (sum : Nat) : State :=
  match s.cfg.indexCarry with
  | .off => s
  | .on => s.setV vf (flagByte (decide (4095 < sum)))

end Sys2Proof.Machine
end

