-- ==== Sys2Proof/Machine/Alu.lean ====
section
/-!
DEFINITION. Register loads, the 8-bit ALU and the random instruction (42_alu.md R150 to R166).
-/
namespace Sys2Proof.Machine

/-- `6xnn` (R151). -/
def execLdImm (x : Nibble) (nn : Byte) (s : State) : Result := .next (s.setV x nn).advance

/-- `7xnn` (R152): no flag. -/
def execAddImm (x : Nibble) (nn : Byte) (s : State) : Result :=
  .next (s.setV x (s.getV x + nn)).advance

/-- `8xy0` (R153). -/
def execLdReg (x y : Nibble) (s : State) : Result := .next (s.setV x (s.getV y)).advance

/-- `8xy1` (R154). -/
def execOrReg (x y : Nibble) (s : State) : Result :=
  .next (s.setV x (s.getV x ||| s.getV y)).advance

/-- `8xy2` (R155). -/
def execAndReg (x y : Nibble) (s : State) : Result :=
  .next (s.setV x (s.getV x &&& s.getV y)).advance

/-- `8xy3` (R156). -/
def execXorReg (x y : Nibble) (s : State) : Result :=
  .next (s.setV x (s.getV x ^^^ s.getV y)).advance

/-- `8xy4` (R157). -/
def execAddReg (x y : Nibble) (s : State) : Result :=
  .next (s.writeFlagResult x (addFlags (s.getV x) (s.getV y))).advance

/-- `8xy5` (R158). -/
def execSub (x y : Nibble) (s : State) : Result :=
  .next (s.writeFlagResult x (subFlags (s.getV x) (s.getV y))).advance

/-- `8xy6` (R159). -/
def execShr (x y : Nibble) (s : State) : Result :=
  .next (s.writeFlagResult x (shrFlags (s.shiftOperand x y))).advance

/-- `8xy7` (R160): the operands of `8xy5` exchanged, the destination still `V[x]`. -/
def execSubn (x y : Nibble) (s : State) : Result :=
  .next (s.writeFlagResult x (subFlags (s.getV y) (s.getV x))).advance

/-- `8xyE` (R161). -/
def execShl (x y : Nibble) (s : State) : Result :=
  .next (s.writeFlagResult x (shlFlags (s.shiftOperand x y))).advance

/-- `Cxnn` (R162): the only instruction that reads the random byte. -/
def execRnd (x : Nibble) (nn : Byte) (s : State) : Result :=
  .next (s.consumeDraw.setV x (s.nextDraw &&& nn)).advance

end Sys2Proof.Machine
end

