-- ==== Sys2Proof/Machine/ControlFlow.lean ====
section
/-!
DEFINITION. The control-transfer instructions (41_control_flow.md R130 to R142).
-/
namespace Sys2Proof.Machine

/-- `1nnn` (R130). -/
def execJp (nnn : Addr) (s : State) : Result := .next (s.setPc (zextAddr nnn))

/-- `2nnn` (R131): the overflow check comes before anything is written. -/
def execCall (nnn : Addr) (s : State) : Result :=
  if s.sp = s.cfg.stackCapacity then .next (s.raise .stackOverflow 0)
  else
    match s.push s.npc with
    | some t => .next (t.setPc (zextAddr nnn))
    | none => .fault .noStackSlot

/-- `00EE` (R132). -/
def execRet (s : State) : Result :=
  if s.sp = 0 then .next (s.raise .stackUnderflow 0)
  else
    match s.popPc with
    | some t => .next t
    | none => .fault .noStackSlot

/-- `Bnnn` (R133): always `V[0]`, and the sum is not reduced. -/
def execJpV0 (nnn : Addr) (s : State) : Result :=
  .next (s.setPc (zextByte (s.getV 0) + zextAddr nnn))

/-- `3xnn` (R134). -/
def execSeImm (x : Nibble) (nn : Byte) (s : State) : Result :=
  .next (s.skipWhen (s.getV x == nn))

/-- `4xnn` (R135). -/
def execSneImm (x : Nibble) (nn : Byte) (s : State) : Result :=
  .next (s.skipWhen (s.getV x != nn))

/-- `5xy0` (R136). -/
def execSeReg (x y : Nibble) (s : State) : Result :=
  .next (s.skipWhen (s.getV x == s.getV y))

/-- `9xy0` (R137). -/
def execSneReg (x y : Nibble) (s : State) : Result :=
  .next (s.skipWhen (s.getV x != s.getV y))

end Sys2Proof.Machine
end

