-- ==== Sys2Proof/Machine/Display.lean ====
section
/-!
DEFINITION. The display instructions and the sprite XOR-compositor (44_display.md R200 to R211), the
compositor written as R202 writes it: row by row, bit by bit.
-/
namespace Sys2Proof.Machine

/-- The pixel `FB[py][px]` (R201). -/
def Framebuffer.pixel (f : Framebuffer) (px : Fin 64) (py : Fin 32) : Bool := (f.get py).getLsbD px.val

/-- `FB[py][px] <- FB[py][px] XOR 1` (R202). -/
def Framebuffer.toggle (f : Framebuffer) (px : Fin 64) (py : Fin 32) : Framebuffer :=
  f.set py.val (f.get py ^^^ BitVec.twoPow 64 px.val)

/-- The target pixel of a sprite bit at column `px`, row `py` before the edge policy: discarded past
the right or bottom edge under `CLIP`, taken modulo the screen under `WRAP` (R202, R203). -/
def spriteTarget (e : SpriteEdge) (px py : Nat) : Option (Fin 64 × Fin 32) :=
  match e with
  | .clip => if h : px < 64 ∧ py < 32 then some (⟨px, h.1⟩, ⟨py, h.2⟩) else none
  | .wrap => some (Fin.ofNat 64 px, Fin.ofNat 32 py)

/-- One sprite bit composited into the display and the collision so far (the inner body of R202). -/
def drawBit (e : SpriteEdge) (bit : Bool) (px py : Nat) (acc : Framebuffer × Bool) :
    Framebuffer × Bool :=
  match spriteTarget e px py with
  | none => acc
  | some (qx, qy) =>
    if bit then (acc.1.toggle qx qy, acc.2 || acc.1.pixel qx qy) else acc

/-- Bits `7 - col` for `col = k, k+1, ...`, `todo` of them, of one sprite row (R202). -/
def drawCols (e : SpriteEdge) (x0 y : Nat) (row : Byte) :
    Nat → Nat → Framebuffer × Bool → Framebuffer × Bool
  | _, 0, acc => acc
  | k, todo + 1, acc =>
    drawCols e x0 y row (k + 1) todo (drawBit e (row.getLsbD (7 - k)) (x0 + k) y acc)

/-- One sprite row of 8 bits, most significant bit leftmost (R201, R202). -/
def drawRow (e : SpriteEdge) (x0 y : Nat) (row : Byte) (acc : Framebuffer × Bool) :
    Framebuffer × Bool :=
  drawCols e x0 y row 0 8 acc

/-- The sprite rows from display row `y` downward (R202). -/
def drawRows (e : SpriteEdge) (x0 : Nat) :
    Nat → List Byte → Framebuffer × Bool → Framebuffer × Bool
  | _, [], acc => acc
  | y, row :: rows, acc => drawRows e x0 (y + 1) rows (drawRow e x0 y row acc)

/-- `draw(x0, y0, rows)` of R202: the new display and whether any pixel collided. -/
def draw (e : SpriteEdge) (f : Framebuffer) (x0 y0 : Nat) (rows : List Byte) : Framebuffer × Bool :=
  drawRows e x0 y0 rows (f, false)

/-- The sprite of `Dxyn`: the `n` bytes at `I` (R206). -/
def State.spriteRows (s : State) (n : Nibble) : List Byte := s.readBytes s.i.toNat n.toNat

/-- The draw of `Dxyn` at (V[x] mod 64, V[y] mod 32), its origin always wrapped (R203, R206). -/
def State.drawSprite (s : State) (x y n : Nibble) : Framebuffer × Bool :=
  draw s.cfg.spriteEdge s.fb ((s.getV x).toNat % 64) ((s.getV y).toNat % 32) (s.spriteRows n)

/-- `00E0` (R205). -/
def execCls (s : State) : Result := .next (s.setFb (Vector.replicate 32 0)).advance

/-- `Dxyn` (R206). -/
def execDrw (x y n : Nibble) (s : State) : Result :=
  guardRange s n.toNat
    ((s.setFb (s.drawSprite x y n).1).setV vf (flagByte (s.drawSprite x y n).2)).advance

end Sys2Proof.Machine
end

