-- ==== Sys2Proof/Machine/IndexMemory.lean ====
section
/-!
DEFINITION. The index register and the memory instructions (43_index_memory.md R180 to R192).
-/
namespace Sys2Proof.Machine

/-- `Annn` (R183). -/
def execLdI (nnn : Addr) (s : State) : Result := .next (s.setI (zextAddr nnn)).advance

/-- `Fx1E` (R184): `V[x]` is read before VF is written; `I` wraps modulo 65536. -/
def execAddI (x : Nibble) (s : State) : Result :=
  .next ((s.writeIndexFlag (s.i.toNat + (s.getV x).toNat)).setI (s.i + zextByte (s.getV x))).advance

/-- `Fx29` (R185). -/
def execLdF (x : Nibble) (s : State) : Result :=
  .next (s.setI (glyphAddress s.cfg (lowNibble (s.getV x)))).advance

/-- `Fx33` (R186). -/
def execLdB (x : Nibble) (s : State) : Result :=
  guardRange s 3 (s.writeBytes s.i.toNat (bcdDigits (s.getV x))).advance

/-- `Fx55` (R187). -/
def execStRegs (x : Nibble) (s : State) : Result :=
  guardRange s (regCount x) ((s.writeBytes s.i.toNat (s.regsUpTo x)).postIncI x).advance

/-- `Fx65` (R188). -/
def execLdRegs (x : Nibble) (s : State) : Result :=
  guardRange s (regCount x) ((s.loadRegs x).postIncI x).advance

end Sys2Proof.Machine
end

