-- ==== Sys2Proof/Machine/Keypad.lean ====
section
/-!
DEFINITION. The keypad instructions (46_keypad.md R230 to R236) and the keypad's own event and observer
(10_state.md R43, R44).
-/
namespace Sys2Proof.Machine

/-- `KEY[k]` (R27, R44). -/
def State.keyDown (s : State) (k : Nibble) : Bool := s.key[k.toNat]'k.isLt

/-- `KEY[k] <- pressed`, the effect of the `setKey` event (R43). -/
def State.setKey (s : State) (k : Nibble) (pressed : Bool) : State :=
  { s with key := s.key.set k.toNat pressed k.isLt }

/-- The key indices in the order of the scan, 0x0 to 0xF (R233). -/
def keyOrder : List Nibble := [0, 1, 2, 3, 4, 5, 6, 7, 8, 9, 10, 11, 12, 13, 14, 15]

/-- The lowest pressed key, if any (R233). -/
def State.lowestKey (s : State) : Option Nibble := keyOrder.find? s.keyDown

/-- `Ex9E` (R231). -/
def execSkp (x : Nibble) (s : State) : Result :=
  .next (s.skipWhen (s.keyDown (lowNibble (s.getV x))))

/-- `ExA1` (R232). -/
def execSknp (x : Nibble) (s : State) : Result :=
  .next (s.skipWhen (!s.keyDown (lowNibble (s.getV x))))

/-- `Fx0A` (R233): with no key down a complete step that changes nothing (R127). -/
def execLdVxK (x : Nibble) (s : State) : Result :=
  match s.lowestKey with
  | none => .next s
  | some k => .next (s.setV x (k.setWidth 8)).advance

end Sys2Proof.Machine
end

