-- ==== Sys2Proof/Machine/Timers.lean ====
section
/-!
DEFINITION. The timer instructions (45_timers.md R220 to R225) and the countdown engine
(60_exceptions.md R250, R251).
-/
namespace Sys2Proof.Machine

/-- `Fx07` (R221). -/
def execLdVxDt (x : Nibble) (s : State) : Result := .next (s.setV x s.dt).advance

/-- `Fx15` (R222). -/
def execLdDtVx (x : Nibble) (s : State) : Result := .next (s.setDt (s.getV x)).advance

/-- `Fx18` (R223). -/
def execLdStVx (x : Nibble) (s : State) : Result := .next (s.setSt (s.getV x)).advance

/-- One decrement with the floor at 0 (R250, R251). -/
def countDown (b : Byte) : Byte := if b = 0 then 0 else b - 1

/-- The `tick` event (R42, R251): both counters, nothing else, in every state. -/
def State.tick (s : State) : State := (s.setDt (countDown s.dt)).setSt (countDown s.st)

end Sys2Proof.Machine
end

