-- ==== Sys2Proof/Syntax.lean ====
section
/-!
DEFINITION. The instruction set: one constructor per row of spec/opcode_table.json, carrying exactly
the operand fields its pattern uses (R95, R96), and the table of match and mask words itself (R96).
-/
namespace Sys2Proof

/-- The 34 instructions, in the order of R96. `x`, `y` are register indices, `n`, `nn`, `nnn`
immediates (R92, R93). -/
inductive Instr where
  /-- `00E0` CLS -/
  | cls
  /-- `00EE` RET -/
  | ret
  /-- `1nnn` JP nnn -/
  | jp (nnn : Addr)
  /-- `2nnn` CALL nnn -/
  | call (nnn : Addr)
  /-- `3xnn` SE Vx, nn -/
  | seImm (x : Nibble) (nn : Byte)
  /-- `4xnn` SNE Vx, nn -/
  | sneImm (x : Nibble) (nn : Byte)
  /-- `5xy0` SE Vx, Vy -/
  | seReg (x y : Nibble)
  /-- `9xy0` SNE Vx, Vy -/
  | sneReg (x y : Nibble)
  /-- `6xnn` LD Vx, nn -/
  | ldImm (x : Nibble) (nn : Byte)
  /-- `7xnn` ADD Vx, nn -/
  | addImm (x : Nibble) (nn : Byte)
  /-- `8xy0` LD Vx, Vy -/
  | ldReg (x y : Nibble)
  /-- `8xy1` OR Vx, Vy -/
  | orReg (x y : Nibble)
  /-- `8xy2` AND Vx, Vy -/
  | andReg (x y : Nibble)
  /-- `8xy3` XOR Vx, Vy -/
  | xorReg (x y : Nibble)
  /-- `8xy4` ADD Vx, Vy -/
  | addReg (x y : Nibble)
  /-- `8xy5` SUB Vx, Vy -/
  | sub (x y : Nibble)
  /-- `8xy6` SHR Vx, Vy (`y` is carried along even where `Q_SHIFT_SRC` ignores it, R101) -/
  | shr (x y : Nibble)
  /-- `8xy7` SUBN Vx, Vy -/
  | subn (x y : Nibble)
  /-- `8xyE` SHL Vx, Vy (`y` as for `shr`, R101) -/
  | shl (x y : Nibble)
  /-- `Annn` LD I, nnn -/
  | ldI (nnn : Addr)
  /-- `Bnnn` JP V0, nnn -/
  | jpV0 (nnn : Addr)
  /-- `Cxnn` RND Vx, nn -/
  | rnd (x : Nibble) (nn : Byte)
  /-- `Dxyn` DRW Vx, Vy, n -/
  | drw (x y n : Nibble)
  /-- `Ex9E` SKP Vx -/
  | skp (x : Nibble)
  /-- `ExA1` SKNP Vx -/
  | sknp (x : Nibble)
  /-- `Fx07` LD Vx, DT -/
  | ldVxDt (x : Nibble)
  /-- `Fx15` LD DT, Vx -/
  | ldDtVx (x : Nibble)
  /-- `Fx18` LD ST, Vx -/
  | ldStVx (x : Nibble)
  /-- `Fx1E` ADD I, Vx -/
  | addI (x : Nibble)
  /-- `Fx0A` LD Vx, K -/
  | ldVxK (x : Nibble)
  /-- `Fx29` LD F, Vx -/
  | ldF (x : Nibble)
  /-- `Fx33` LD B, Vx -/
  | ldB (x : Nibble)
  /-- `Fx55` LD [I], Vx -/
  | stRegs (x : Nibble)
  /-- `Fx65` LD Vx, [I] -/
  | ldRegs (x : Nibble)
  deriving DecidableEq, Repr

/-- The mnemonic of an instruction, as spec/opcode_table.json spells it. -/
def Instr.mnemonic : Instr → String
  | .cls => "CLS"
  | .ret => "RET"
  | .jp _ => "JP_nnn"
  | .call _ => "CALL_nnn"
  | .seImm _ _ => "SE_Vx__nn"
  | .sneImm _ _ => "SNE_Vx__nn"
  | .seReg _ _ => "SE_Vx__Vy"
  | .sneReg _ _ => "SNE_Vx__Vy"
  | .ldImm _ _ => "LD_Vx__nn"
  | .addImm _ _ => "ADD_Vx__nn"
  | .ldReg _ _ => "LD_Vx__Vy"
  | .orReg _ _ => "OR_Vx__Vy"
  | .andReg _ _ => "AND_Vx__Vy"
  | .xorReg _ _ => "XOR_Vx__Vy"
  | .addReg _ _ => "ADD_Vx__Vy"
  | .sub _ _ => "SUB_Vx__Vy"
  | .shr _ _ => "SHR_Vx__Vy"
  | .subn _ _ => "SUBN_Vx__Vy"
  | .shl _ _ => "SHL_Vx__Vy"
  | .ldI _ => "LD_I__nnn"
  | .jpV0 _ => "JP_V0__nnn"
  | .rnd _ _ => "RND_Vx__nn"
  | .drw _ _ _ => "DRW_Vx__Vy__n"
  | .skp _ => "SKP_Vx"
  | .sknp _ => "SKNP_Vx"
  | .ldVxDt _ => "LD_Vx__DT"
  | .ldDtVx _ => "LD_DT__Vx"
  | .ldStVx _ => "LD_ST__Vx"
  | .addI _ => "ADD_I__Vx"
  | .ldVxK _ => "LD_Vx__K"
  | .ldF _ => "LD_F__Vx"
  | .ldB _ => "LD_B__Vx"
  | .stRegs _ => "LD__I___Vx"
  | .ldRegs _ => "LD_Vx___I"

/-- A row of the opcode map: a word `ir` is the instruction when `ir AND mask = bits` (R96). -/
structure OpcodeRow where
  mnemonic : String
  bits : Word
  mask : Word
  deriving DecidableEq, Repr

/-- Rows 1 to 8 of R96: control flow and CLS. -/
def opcodeRowsControl : List OpcodeRow :=
  [⟨"CLS", 0x00E0, 0xFFFF⟩, ⟨"RET", 0x00EE, 0xFFFF⟩, ⟨"JP_nnn", 0x1000, 0xF000⟩,
   ⟨"CALL_nnn", 0x2000, 0xF000⟩, ⟨"SE_Vx__nn", 0x3000, 0xF000⟩, ⟨"SNE_Vx__nn", 0x4000, 0xF000⟩,
   ⟨"SE_Vx__Vy", 0x5000, 0xF00F⟩, ⟨"SNE_Vx__Vy", 0x9000, 0xF00F⟩]

/-- Rows 9 to 19 of R96: register loads and the ALU. -/
def opcodeRowsAlu : List OpcodeRow :=
  [⟨"LD_Vx__nn", 0x6000, 0xF000⟩, ⟨"ADD_Vx__nn", 0x7000, 0xF000⟩, ⟨"LD_Vx__Vy", 0x8000, 0xF00F⟩,
   ⟨"OR_Vx__Vy", 0x8001, 0xF00F⟩, ⟨"AND_Vx__Vy", 0x8002, 0xF00F⟩, ⟨"XOR_Vx__Vy", 0x8003, 0xF00F⟩,
   ⟨"ADD_Vx__Vy", 0x8004, 0xF00F⟩, ⟨"SUB_Vx__Vy", 0x8005, 0xF00F⟩, ⟨"SHR_Vx__Vy", 0x8006, 0xF00F⟩,
   ⟨"SUBN_Vx__Vy", 0x8007, 0xF00F⟩, ⟨"SHL_Vx__Vy", 0x800E, 0xF00F⟩]

/-- Rows 20 to 25 of R96: index, jump with offset, random, draw, key skips. -/
def opcodeRowsMiddle : List OpcodeRow :=
  [⟨"LD_I__nnn", 0xA000, 0xF000⟩, ⟨"JP_V0__nnn", 0xB000, 0xF000⟩, ⟨"RND_Vx__nn", 0xC000, 0xF000⟩,
   ⟨"DRW_Vx__Vy__n", 0xD000, 0xF000⟩, ⟨"SKP_Vx", 0xE09E, 0xF0FF⟩, ⟨"SKNP_Vx", 0xE0A1, 0xF0FF⟩]

/-- Rows 26 to 34 of R96: class 0xF. -/
def opcodeRowsF : List OpcodeRow :=
  [⟨"LD_Vx__DT", 0xF007, 0xF0FF⟩, ⟨"LD_DT__Vx", 0xF015, 0xF0FF⟩, ⟨"LD_ST__Vx", 0xF018, 0xF0FF⟩,
   ⟨"ADD_I__Vx", 0xF01E, 0xF0FF⟩, ⟨"LD_Vx__K", 0xF00A, 0xF0FF⟩, ⟨"LD_F__Vx", 0xF029, 0xF0FF⟩,
   ⟨"LD_B__Vx", 0xF033, 0xF0FF⟩, ⟨"LD__I___Vx", 0xF055, 0xF0FF⟩, ⟨"LD_Vx___I", 0xF065, 0xF0FF⟩]

/-- The opcode map of R96, all 34 rows in the table's order. -/
def opcodeTable : List OpcodeRow :=
  opcodeRowsControl ++ opcodeRowsAlu ++ opcodeRowsMiddle ++ opcodeRowsF

end Sys2Proof
end

