-- ==== Sys2Proof/WellFormed.lean ====
section
/-!
DEFINITION. Well-formedness. Every term of `Instr` is well formed by its types: each field has exactly
the width its encoding gives it and every value of a field is legal (R93: there are 16 registers, so
no register field can be out of range). What can be ill formed is an instruction word: the check
below, which the rows of R96 define, refuses each of the classes (a) to (f) of R99.
-/
namespace Sys2Proof

/-- The word matches the row (R96: `ir AND mask = match`). -/
def OpcodeRow.matchesWord (r : OpcodeRow) (ir : Word) : Bool := ir &&& r.mask == r.bits

/-- The word is one of the 34 instructions; every other word is illegal (R99, R100). -/
def wordWellFormed (ir : Word) : Bool := opcodeTable.any (·.matchesWord ir)

end Sys2Proof
end

