-- ==== Sys2Proof/Decode.lean ====
section
/-!
DEFINITION. The decoder (R92, R94, R97, R98), total on words and on byte lists, and the encoder (R105).
The quirk parameters never change decoding (R90).
-/
namespace Sys2Proof

/-- `class = ir[15:12]` (R92). -/
def fieldClass (ir : Word) : Nibble := ir.extractLsb' 12 4

/-- `x = ir[11:8]` (R92). -/
def fieldX (ir : Word) : Nibble := ir.extractLsb' 8 4

/-- `y = ir[7:4]` (R92). -/
def fieldY (ir : Word) : Nibble := ir.extractLsb' 4 4

/-- `n = ir[3:0]` (R92). -/
def fieldN (ir : Word) : Nibble := ir.extractLsb' 0 4

/-- `nn = ir[7:0]` (R92). -/
def fieldNN (ir : Word) : Byte := ir.extractLsb' 0 8

/-- `nnn = ir[11:0]` (R92). -/
def fieldNNN (ir : Word) : Addr := ir.extractLsb' 0 12

/-- Class 0x0 is matched on all 16 bits (R94, R98). -/
def decode0 (ir : Word) : Option Instr :=
  if ir = 0x00E0#16 then some .cls
  else if ir = 0x00EE#16 then some .ret
  else none

/-- Class 0x8, second-level dispatch on the bottom nibble (R94, R98). -/
def decode8 (x y n : Nibble) : Option Instr :=
  match n.toNat with
  | 0x0 => some (.ldReg x y)
  | 0x1 => some (.orReg x y)
  | 0x2 => some (.andReg x y)
  | 0x3 => some (.xorReg x y)
  | 0x4 => some (.addReg x y)
  | 0x5 => some (.sub x y)
  | 0x6 => some (.shr x y)
  | 0x7 => some (.subn x y)
  | 0xE => some (.shl x y)
  | _ => none

/-- Class 0xE, second-level dispatch on the bottom byte (R94, R98). -/
def decodeE (x : Nibble) (nn : Byte) : Option Instr :=
  if nn = 0x9E#8 then some (.skp x)
  else if nn = 0xA1#8 then some (.sknp x)
  else none

/-- Class 0xF, second-level dispatch on the bottom byte (R94, R98, R224). -/
def decodeF (x : Nibble) (nn : Byte) : Option Instr :=
  if nn = 0x07#8 then some (.ldVxDt x)
  else if nn = 0x0A#8 then some (.ldVxK x)
  else if nn = 0x15#8 then some (.ldDtVx x)
  else if nn = 0x18#8 then some (.ldStVx x)
  else if nn = 0x1E#8 then some (.addI x)
  else if nn = 0x29#8 then some (.ldF x)
  else if nn = 0x33#8 then some (.ldB x)
  else if nn = 0x55#8 then some (.stRegs x)
  else if nn = 0x65#8 then some (.ldRegs x)
  else none

/-- `decode(ir)` of R98; `none` is the distinguished `unknown` of R95. -/
def decode (ir : Word) : Option Instr :=
  match (fieldClass ir).toNat with
  | 0x0 => decode0 ir
  | 0x1 => some (.jp (fieldNNN ir))
  | 0x2 => some (.call (fieldNNN ir))
  | 0x3 => some (.seImm (fieldX ir) (fieldNN ir))
  | 0x4 => some (.sneImm (fieldX ir) (fieldNN ir))
  | 0x5 => if fieldN ir = 0 then some (.seReg (fieldX ir) (fieldY ir)) else none
  | 0x6 => some (.ldImm (fieldX ir) (fieldNN ir))
  | 0x7 => some (.addImm (fieldX ir) (fieldNN ir))
  | 0x8 => decode8 (fieldX ir) (fieldY ir) (fieldN ir)
  | 0x9 => if fieldN ir = 0 then some (.sneReg (fieldX ir) (fieldY ir)) else none
  | 0xA => some (.ldI (fieldNNN ir))
  | 0xB => some (.jpV0 (fieldNNN ir))
  | 0xC => some (.rnd (fieldX ir) (fieldNN ir))
  | 0xD => some (.drw (fieldX ir) (fieldY ir) (fieldN ir))
  | 0xE => decodeE (fieldX ir) (fieldNN ir)
  | 0xF => decodeF (fieldX ir) (fieldNN ir)
  | _ => none

/-- Two bytes in memory order as one word: the byte at the lower address is the high byte (R67). -/
def wordOfBytes (hi lo : Byte) : Word := hi ++ lo

/-- Why a byte string is no instruction. -/
inductive Reject where
  /-- Fewer than the two bytes every instruction has (R90). -/
  | truncated
  /-- A word that matches none of the 34 patterns (R99). -/
  | unknownOpcode (ir : Word)
  deriving DecidableEq, Repr

/-- The outcome of decoding a byte string. -/
inductive Decoded where
  | instr (i : Instr) (rest : List Byte)
  | rejected (why : Reject)
  deriving DecidableEq, Repr

/-- The decoder on any bytes: the first instruction and the bytes after it, or a rejection by name. -/
def decodeBytes : List Byte → Decoded
  | hi :: lo :: rest =>
    match decode (wordOfBytes hi lo) with
    | some i => .instr i rest
    | none => .rejected (.unknownOpcode (wordOfBytes hi lo))
  | _ => .rejected .truncated

/-- The 16 bits of a table word: bits of `w` at or above `nbits` are 0. -/
def tableWord (nbits w : Nat) : Word := BitVec.ofNat 16 (w % 2 ^ nbits)

/-- The two bytes of a word in memory order (R67). -/
def bytesOfWord (ir : Word) : List Byte := [ir.extractLsb' 8 8, ir.extractLsb' 0 8]

/-- The instruction this decoder reads from a table word laid out as the hardware stores it. -/
def decodeTableWord (nbits w : Nat) : Option Instr :=
  match decodeBytes (bytesOfWord (tableWord nbits w)) with
  | .instr i _ => some i
  | .rejected _ => none

/-- A word of format NNN: class, `nnn` (R91, R105). -/
def encNNN (c : Nibble) (nnn : Addr) : Word := c ++ nnn

/-- A word of format XNN, and of XKK with `nn` the fixed sub-operation (R91, R105). -/
def encXNN (c x : Nibble) (nn : Byte) : Word := c ++ (x ++ nn)

/-- A word of format XYN, and of XYK with `n` the fixed sub-operation (R91, R105). -/
def encXYN (c x y n : Nibble) : Word := c ++ (x ++ (y ++ n))

/-- Encoding an instruction (R105), from the formats of R91 and the match words of R96. -/
def encode : Instr → Word
  | .cls => 0x00E0
  | .ret => 0x00EE
  | .jp nnn => encNNN 0x1 nnn
  | .call nnn => encNNN 0x2 nnn
  | .seImm x nn => encXNN 0x3 x nn
  | .sneImm x nn => encXNN 0x4 x nn
  | .seReg x y => encXYN 0x5 x y 0x0
  | .sneReg x y => encXYN 0x9 x y 0x0
  | .ldImm x nn => encXNN 0x6 x nn
  | .addImm x nn => encXNN 0x7 x nn
  | .ldReg x y => encXYN 0x8 x y 0x0
  | .orReg x y => encXYN 0x8 x y 0x1
  | .andReg x y => encXYN 0x8 x y 0x2
  | .xorReg x y => encXYN 0x8 x y 0x3
  | .addReg x y => encXYN 0x8 x y 0x4
  | .sub x y => encXYN 0x8 x y 0x5
  | .shr x y => encXYN 0x8 x y 0x6
  | .subn x y => encXYN 0x8 x y 0x7
  | .shl x y => encXYN 0x8 x y 0xE
  | .ldI nnn => encNNN 0xA nnn
  | .jpV0 nnn => encNNN 0xB nnn
  | .rnd x nn => encXNN 0xC x nn
  | .drw x y n => encXYN 0xD x y n
  | .skp x => encXNN 0xE x 0x9E
  | .sknp x => encXNN 0xE x 0xA1
  | .ldVxDt x => encXNN 0xF x 0x07
  | .ldDtVx x => encXNN 0xF x 0x15
  | .ldStVx x => encXNN 0xF x 0x18
  | .addI x => encXNN 0xF x 0x1E
  | .ldVxK x => encXNN 0xF x 0x0A
  | .ldF x => encXNN 0xF x 0x29
  | .ldB x => encXNN 0xF x 0x33
  | .stRegs x => encXNN 0xF x 0x55
  | .ldRegs x => encXNN 0xF x 0x65

end Sys2Proof
end

