-- ==== Sys2Proof/Machine/Fetch.lean ====
section
/-!
DEFINITION. Fetch and decode (40_step_cycle.md R120 to R122; 20_memory.md R65 to R67), with the checks
in R122's order: halted, fetch range, unknown word.
-/
namespace Sys2Proof.Machine

/-- What fetch and decode settle: the step is over, or an instruction is to be executed. -/
inductive Fetched where
  /-- The step ends in this state: halted and unchanged, or a fatal condition raised. -/
  | done (t : State)
  /-- This instruction executes. -/
  | run (i : Instr)
  deriving DecidableEq, Repr

/-- `ir = MEM[PC] * 256 + MEM[PC+1]` (R67). -/
def State.fetchWord (s : State) : Word :=
  wordOfBytes (s.readByte s.pc.toNat) (s.readByte (s.pc.toNat + 1))

/-- R120 up to the execution. -/
def State.fetch (s : State) : Fetched :=
  if s.haltCause ≠ .running then .done s
  else if 4094 < s.pc.toNat then .done (s.raise .outOfBoundsAddress (firstBad s.pc))
  else
    match decode s.fetchWord with
    | none => .done (s.raise .unknownOpcode s.fetchWord)
    | some i => .run i

/-- The instruction's bytes stored where the next step fetches, and the core not halted. -/
def State.placeWord (s : State) (ir : Word) : State :=
  { s.writeBytes s.pc.toNat (bytesOfWord ir) with haltCause := .running }

end Sys2Proof.Machine
end

