-- ==== Sys2Proof/Machine/Step.lean ====
section
/-!
DEFINITION. The step (40_step_cycle.md R120): the event step(r), with r the state's next draw.
-/
namespace Sys2Proof.Machine

/-- One step: fetch and decode, then the instruction's meaning. -/
def step (s : State) : Host.Outcome State Fault Refusal :=
  match s.fetch with
  | .done t => .next t
  | .run i => exec i s

/-- `s` with a table word stored where the next step fetches (log entry 12). -/
def State.withFetchWord (s : State) (nbits w : Nat) : State := s.placeWord (tableWord nbits w)

end Sys2Proof.Machine
end

