-- ==== Sys2Proof/Machine/Events.lean ====
section
/-!
DEFINITION. The seven interface events (10_state.md R40 to R49; 60_exceptions.md R261). Each is one
atomic transition; the host chooses their order (R47).
-/
namespace Sys2Proof.Machine

/-- The event `step(r)` (R41): one step whose random byte is `r`; later draws are not touched. -/
def stepEvent (r : Byte) (s : State) : Result :=
  match step { s with draws := [r] } with
  | .next t => .next { t with draws := s.draws }
  | .fault f => .fault f
  | .refused f => .refused f

/-- The event `reset()` (R48): every element at its reset value; the configuration survives (R282), and
so do the environment's draws. -/
def State.resetEvent (s : State) : State :=
  { State.resetWith s.cfg with draws := s.draws, drawCount := s.drawCount }

/-- The largest image, 4096 - 512 bytes (R46, R285). -/
def maxImage : Nat := 3584

/-- The event `loadProgram(bytes)` (R46): only right after reset, and only an image that fits. -/
def loadProgram (bytes : List Byte) (s : State) : Result :=
  if maxImage < bytes.length then .refused .imageTooLong
  else if s = s.resetEvent then .next (s.writeBytes programBase bytes)
  else .refused .loadNotAfterReset

/-- The event `setKey(k, pressed)` (R43), `k` in 0..15. -/
def setKeyEvent (k : Nat) (pressed : Bool) (s : State) : Result :=
  if k < 16 then .next (s.setKey (BitVec.ofNat 4 k) pressed) else .refused .keyIndexOutOfRange

/-- The observer `keyState(k)` (R44): none where the call has no transition. -/
def keyState (k : Nat) (s : State) : Option Bool :=
  if k < 16 then some (s.keyDown (BitVec.ofNat 4 k)) else none

/-- The observer `getFramebuffer()` (R45): all of `FB`. -/
def getFramebuffer (s : State) : Framebuffer := s.fb

/-- What the host can do to the core (R261). -/
inductive Event where
  | step (r : Byte)
  | tick
  | setKey (k : Nat) (pressed : Bool)
  | keyState (k : Nat)
  | getFramebuffer
  | loadProgram (bytes : List Byte)
  | reset
  deriving DecidableEq, Repr

/-- The state an event leaves; the two observers change nothing. -/
def applyEvent (e : Event) (s : State) : Result :=
  match e with
  | .step r => stepEvent r s
  | .tick => .next s.tick
  | .setKey k p => setKeyEvent k p s
  | .keyState k => if k < 16 then .next s else .refused .keyIndexOutOfRange
  | .getFramebuffer => .next s
  | .loadProgram bytes => loadProgram bytes s
  | .reset => .next s.resetEvent

/-- A sequence of events from `s`, the next one in the state the last one leaves (R47). -/
def applyEvents : List Event → State → Result
  | [], s => .next s
  | e :: es, s =>
    match applyEvent e s with
    | .next t => applyEvents es t
    | .fault f => .fault f
    | .refused f => .refused f

end Sys2Proof.Machine
end

