-- ==== Sys2Proof/Safety.lean ====
section
/-!
DEFINITION. The terms claims are stated in: the invariant of reachable states (10_state.md R32), what
counts as a halted (faulted) core (60_exceptions.md R245), the end of a run (40_step_cycle.md R125), and
the frame of an instruction.
-/
namespace Sys2Proof.Machine

/-- A halted core. R245: a model treats this as a fault that is never a final state. -/
abbrev State.halted (s : State) : Prop := s.haltCause ≠ .running

/-- The invariants of R32's last column, with the legal parameters of R7 and the canonical memory. -/
abbrev StateInv (s : State) : Prop :=
  s.cfg.wf ∧ s.pc.toNat ≤ 4350 ∧ s.sp ≤ s.cfg.stackCapacity ∧
  s.stack.length = s.cfg.stackCapacity ∧
  (∀ w ∈ s.stack.take s.sp, 2 ≤ w.toNat ∧ w.toNat ≤ 4096) ∧ s.mem.wf s.cfg

/-- The states a host can bring about from a reset machine of any legal configuration (R47, R281). -/
inductive Reachable : State → Prop where
  | reset (c : Config) (h : c.wf) : Reachable (State.resetWith c)
  | event (s t : State) (e : Event) (h : Reachable s) (ht : applyEvent e s = .next t) : Reachable t

/-- A run is safe as far as `s` when no fatal condition has been raised. -/
def SafeState (s : State) : Prop := Reachable s ∧ ¬ s.halted

/-- The core is at a self-jump at address `a`: `PC = a`, and `MEM[a], MEM[a+1]` hold the word
`0x1000 OR a` (R125). Both bytes must be in memory. DESIGN CHOICE (log entry 18): a halted state is none,
as R125, R49 and R245 say, although the row D23 of 92_eei_decisions.md also ends a run at a halt. -/
abbrev State.AtSelfJump (s : State) (a : Addr) : Prop :=
  ¬ s.halted ∧ s.pc = zextAddr a ∧ a.toNat ≤ 4094 ∧
  wordOfBytes (s.readByte a.toNat) (s.readByte (a.toNat + 1)) = 0x1000 ||| zextAddr a

/-- The run of the events `es` from `s` ends at `t` (R125, the self-jump of the spec's decision D23;
log entry 18): `t` is its first state at a self-jump at the address `a` that the claim names. -/
def EndsRun (a : Addr) (es : List Event) (s t : State) : Prop :=
  applyEvents es s = .next t ∧ t.AtSelfJump a ∧
  ∀ k u, k < es.length → applyEvents (es.take k) s = .next u → ¬ u.AtSelfJump a

/-- What an instruction may change, beside `PC`: the registers `V[k]` with `v k`, the slots `k` with
`slots k`, the bytes of memory at `a` with `bytes a`, and the named single elements. -/
structure MayChange where
  v : Nibble → Bool := fun _ => false
  i : Bool := false
  sp : Bool := false
  slots : Nat → Bool := fun _ => false
  dt : Bool := false
  st : Bool := false
  fb : Bool := false
  draws : Bool := false
  bytes : Nat → Bool := fun _ => false

/-- From `s` to `t` nothing changed except `PC` and what `m` names; the keypad, the halt registers and
the configuration are in no instruction's frame. -/
structure Frame (m : MayChange) (s t : State) : Prop where
  v : ∀ k, m.v k = false → t.getV k = s.getV k
  i : m.i = false → t.i = s.i
  sp : m.sp = false → t.sp = s.sp
  slots : ∀ k, m.slots k = false → t.stack[k]? = s.stack[k]?
  dt : m.dt = false → t.dt = s.dt
  st : m.st = false → t.st = s.st
  fb : m.fb = false → t.fb = s.fb
  draws : m.draws = false → t.draws = s.draws ∧ t.drawCount = s.drawCount
  bytes : ∀ a, m.bytes a = false → t.readByte a = s.readByte a
  key : t.key = s.key
  halt : t.haltCause = s.haltCause ∧ t.haltPc = s.haltPc ∧ t.haltInfo = s.haltInfo
  cfg : t.cfg = s.cfg

/-- The instruction completes in `s`: exec answers a next state, of which `P` holds. -/
def Completes (i : Instr) (s : State) (P : State → Prop) : Prop := ∃ t, exec i s = .next t ∧ P t

/-- The state in which a fatal condition with this cause and diagnostic leaves `s` (R244, R123). -/
def State.haltedWith (s : State) (c : HaltCause) (info : Word) : State :=
  { s with haltCause := c, haltPc := s.pc, haltInfo := info }

/-- A 1 bit of the sprite of `Dxyn` lies over the display pixel (px, py) and is not discarded by the
edge policy (R202, R208): bit `7 - c` of the byte at `I + k` is drawn at column `x0 + c`, row `y0 + k`. -/
def SpriteCovers (s : State) (x y n : Nibble) (px : Fin 64) (py : Fin 32) : Prop :=
  ∃ k c : Nat, k < n.toNat ∧ c < 8 ∧ (s.readByte (s.i.toNat + k)).getLsbD (7 - c) = true ∧
    match s.cfg.spriteEdge with
    | .clip => px.val = (s.getV x).toNat % 64 + c ∧ py.val = (s.getV y).toNat % 32 + k
    | .wrap =>
      px.val = ((s.getV x).toNat % 64 + c) % 64 ∧ py.val = ((s.getV y).toNat % 32 + k) % 32

/-- Some pixel goes from set to clear in the draw (R206, R208). -/
def SpriteCollides (s : State) (x y n : Nibble) : Prop :=
  ∃ px py, SpriteCovers s x y n px py ∧ s.fb.pixel px py = true

/-- A result with other values in the draw fields of its next state. -/
def withDraws (ds : List Byte) (n : Nat) : Result → Result
  | .next t => .next { t with draws := ds, drawCount := n }
  | .fault f => .fault f
  | .refused r => .refused r

/-- The set of one register, as a frame's `v`. -/
def onlyV (x : Nibble) : Nibble → Bool := fun k => k == x

/-- The destination and VF, as a frame's `v`. -/
def onlyVAndVF (x : Nibble) : Nibble → Bool := fun k => k == x || k == vf

/-- The registers an instruction may write (R32's row of `V`, with R21): its `V[x]`, VF as a flag, or
`V[0..x]` of `Fx65`. -/
def writesV (c : Config) : Instr → Nibble → Bool
  | .ldImm x _ | .addImm x _ | .ldReg x _ | .orReg x _ | .andReg x _ | .xorReg x _ | .rnd x _
  | .ldVxDt x | .ldVxK x => onlyV x
  | .addReg x _ | .sub x _ | .shr x _ | .subn x _ | .shl x _ => onlyVAndVF x
  | .drw _ _ _ => onlyV vf
  | .addI _ => fun k => c.indexCarry == .on && k == vf
  | .ldRegs x => fun k => decide (k.toNat ≤ x.toNat)
  | .cls | .ret | .jp _ | .call _ | .seImm _ _ | .sneImm _ _ | .seReg _ _ | .sneReg _ _ | .ldI _
  | .jpV0 _ | .skp _ | .sknp _ | .ldDtVx _ | .ldStVx _ | .ldF _ | .ldB _ | .stRegs _ => fun _ => false

/-- The instructions that can raise a fatal condition once decoded (R262). -/
def canRaise : Instr → Bool
  | .ret | .call _ | .ldB _ | .stRegs _ | .ldRegs _ => true
  | .drw _ _ n => n != 0
  | .cls | .jp _ | .seImm _ _ | .sneImm _ _ | .seReg _ _ | .sneReg _ _ | .ldImm _ _ | .addImm _ _
  | .ldReg _ _ | .orReg _ _ | .andReg _ _ | .xorReg _ _ | .addReg _ _ | .sub _ _ | .shr _ _ | .subn _ _
  | .shl _ _ | .ldI _ | .jpV0 _ | .rnd _ _ | .skp _ | .sknp _ | .ldVxDt _ | .ldDtVx _ | .ldStVx _
  | .addI _ | .ldVxK _ | .ldF _ => false

/-- The `k` bytes at `a`, as a frame's `bytes`. -/
def bytesAt (a k : Nat) : Nat → Bool := fun b => decide (a ≤ b ∧ b < a + k)

end Sys2Proof.Machine
end

