-- ==== Sys2Proof/Certificates/Slice0/Obligations.lean ====
section
/-!
DEFINITION. The statements for the provers. Each docstring names the rules of spec/ it formalises and
what of it is the spec's own decision or the model's choice. The frame of an instruction is Safety's
`Frame`: everything but `PC` and what its first argument names is unchanged, every byte of memory
included.
-/
open Sys2Proof Sys2Proof.Machine

/-! ## Encoding -/

/-- R92, R96, R105: decoding an encoded instruction gives it back, at every value of every operand. -/
def Obligations.DecodeOfEncodeIsIdentity : Prop := ∀ i : Instr, decode (encode i) = some i

/-- R92, R96, R105: a word that decodes to an instruction is that instruction's encoding. -/
def Obligations.EncodeOfDecodeIsIdentity : Prop :=
  ∀ (ir : Word) (i : Instr), decode ir = some i → encode i = ir

/-- R96, R98, R99: decode accepts exactly the words that match a row of the opcode map, and gives the
instruction of the row that matches. -/
def Obligations.DecodeAcceptsExactlyTheTable : Prop :=
  (∀ ir : Word, (decode ir).isSome = true ↔ ∃ r ∈ opcodeTable, ir &&& r.mask = r.bits) ∧
  ∀ (ir : Word) (i : Instr), decode ir = some i →
    ∃ r ∈ opcodeTable, r.mnemonic = i.mnemonic ∧ ir &&& r.mask = r.bits

/-- R96: no word matches two rows. -/
def Obligations.NoWordMatchesTwoRows : Prop :=
  ∀ (ir : Word), ∀ r ∈ opcodeTable, ∀ q ∈ opcodeTable,
    ir &&& r.mask = r.bits → ir &&& q.mask = q.bits → r = q

/-- R91, R96: words written out bit by bit decode to the instructions they stand for. -/
def Obligations.SampleWordsDecode : Prop :=
  decode 0b0000000011100000 = some .cls ∧
  decode 0b0010001000001000 = some (.call 0b001000001000) ∧
  decode 0b1000111100010101 = some (.sub 0b1111 0b0001) ∧
  decode 0b1010001100000000 = some (.ldI 0b001100000000) ∧
  decode 0b1101000100100101 = some (.drw 0b0001 0b0010 0b0101) ∧
  decode 0b1110010010011110 = some (.skp 0b0100) ∧
  decode 0b1111001100000111 = some (.ldVxDt 0b0011) ∧
  decode 0b1111001001100101 = some (.ldRegs 0b0010) ∧
  decode 0b0101000100100001 = none

/-! ## The step -/

/-- R67, R120, R121: with the core running and `PC` at most 4094, when the bytes at `PC` and `PC + 1`,
the first the high one, decode to `i`, the step is `exec i` and nothing around it. -/
def Obligations.StepRunsDecodedInstruction : Prop :=
  ∀ (s : State) (i : Instr), s.haltCause = .running → s.pc.toNat ≤ 4094 →
    decode (BitVec.ofNat 16 ((s.readByte s.pc.toNat).toNat * 256 +
      (s.readByte (s.pc.toNat + 1)).toNat)) = some i →
    step s = exec i s

/-- R49, R120 (the spec's decision D14): the step of a halted core changes nothing. -/
def Obligations.HaltedStepChangesNothing : Prop :=
  ∀ s : State, s.halted → step s = .next s

/-- R65, R243 (the spec's decisions D2, D14): a fetch with `PC` above 4094 raises OutOfBoundsAddress with
`HALT_INFO = max(PC, 4096)`, and nothing but the halt registers changes. -/
def Obligations.FetchOutOfRangeRaises : Prop :=
  ∀ s : State, s.haltCause = .running → 4094 < s.pc.toNat →
    step s = .next (s.haltedWith .outOfBoundsAddress (BitVec.ofNat 16 (max s.pc.toNat 4096)))

/-- R99, R240 (the spec's decision D14): a fetched word that is no instruction raises UnknownOpcode with
`HALT_INFO` the word, and nothing but the halt registers changes. -/
def Obligations.UnknownWordRaises : Prop :=
  ∀ s : State, s.haltCause = .running → s.pc.toNat ≤ 4094 →
    decode s.fetchWord = none → step s = .next (s.haltedWith .unknownOpcode s.fetchWord)

/-- R123, R244 (the spec's decisions D14, D15): a step that raises a fatal condition leaves everything as
it was but the halt registers, and `HALT_PC` is the address of the instruction. -/
def Obligations.FatalStepIsPrecise : Prop :=
  ∀ s t : State, s.haltCause = .running → step s = .next t → t.halted →
    t = s.haltedWith t.haltCause t.haltInfo ∧ t.haltPc = s.pc

/-- R262: only `2nnn`, `00EE`, `Dxyn` with `n >= 1`, `Fx33`, `Fx55` and `Fx65` can raise once decoded. -/
def Obligations.OnlySixInstructionsRaise : Prop :=
  ∀ (i : Instr) (s t : State), s.haltCause = .running → exec i s = .next t → t.halted →
    i = .ret ∨ (∃ nnn, i = .call nnn) ∨ (∃ x y n, i = .drw x y n ∧ n ≠ 0) ∨
    (∃ x, i = .ldB x) ∨ (∃ x, i = .stRegs x) ∨ (∃ x, i = .ldRegs x)

/-- R95, R120, R127: in a state that meets the invariant every step answers a next state; none ends in a
fault or a refusal. -/
def Obligations.StepAlwaysAnswersNext : Prop :=
  ∀ s : State, StateInv s → ∃ t, step s = .next t

/-- R32: every step keeps the invariant (PC in 0..4350, SP within the stack, return addresses 2..4096,
memory canonical, parameters legal), from every state that meets it. -/
def Obligations.StepKeepsStateInv : Prop :=
  ∀ s t : State, StateInv s → step s = .next t → StateInv t

/-- R32, R47: every host event keeps the invariant. -/
def Obligations.EventsKeepStateInv : Prop :=
  ∀ (e : Event) (s t : State), StateInv s → applyEvent e s = .next t → StateInv t

/-- R32: the invariant holds in every state a host can bring about. -/
def Obligations.ReachableStatesMeetInv : Prop := ∀ s : State, Reachable s → StateInv s

/-- R245 (the spec's decision D14): no event but `reset()` clears or changes the halt registers of a
halted core. -/
def Obligations.HaltLastsUntilReset : Prop :=
  ∀ (e : Event) (s t : State), s.halted → e ≠ .reset → applyEvent e s = .next t →
    t.haltCause = s.haltCause ∧ t.haltPc = s.haltPc ∧ t.haltInfo = s.haltInfo

/-- R125 (the spec's decision D23, without its 'or a halt': that a halt ends no run is R125's word and the
model's choice between the two, log entry 18): at the end of a run the core is not halted and a step,
whatever its draw, changes nothing; after any further steps, ticks, key events and observations it is
still there, and only the timers and the keys have changed; and a run has one end, its first. -/
def Obligations.EndOfRunIsKept : Prop :=
  ∀ (a : Addr) (es : List Event) (s t : State), EndsRun a es s t →
    ¬ t.halted ∧ step t = .next t ∧ (∀ r, stepEvent r t = .next t) ∧
    ∀ (fs : List Event) (u : State), applyEvents fs t = .next u →
      ((∀ e ∈ fs, e ≠ .reset ∧ ∀ bytes, e ≠ .loadProgram bytes) →
        u.AtSelfJump a ∧ u = { t with dt := u.dt, st := u.st, key := u.key }) ∧
      (EndsRun a (es ++ fs) s u → fs = [])

/-- R32, R38: the reset state of every legal configuration meets the invariant. -/
def Obligations.ResetMeetsStateInv : Prop := ∀ c : Config, c.wf → StateInv (State.resetWith c)

/-- R32 (its column "written by", with R21, R24, R25, R26, R27, R28, R262): what no instruction but the
named ones changes. `PC`, which every completed step writes, has no clause. -/
def Obligations.OnlyNamedInstructionsWrite : Prop :=
  ∀ (i : Instr) (s t : State), exec i s = .next t →
    t.key = s.key ∧ t.cfg = s.cfg ∧
    (∀ k, writesV s.cfg i k = false → t.getV k = s.getV k) ∧
    (canRaise i = false →
      t.haltCause = s.haltCause ∧ t.haltPc = s.haltPc ∧ t.haltInfo = s.haltInfo) ∧
    ((∀ x, i ≠ .ldDtVx x) → t.dt = s.dt) ∧
    ((∀ x, i ≠ .ldStVx x) → t.st = s.st) ∧
    (i ≠ .cls → (∀ x y n, i ≠ .drw x y n) → t.fb = s.fb) ∧
    ((∀ x, i ≠ .ldB x) → (∀ x, i ≠ .stRegs x) → ∀ a, t.readByte a = s.readByte a) ∧
    ((∀ nnn, i ≠ .call nnn) → t.stack = s.stack) ∧
    ((∀ nnn, i ≠ .call nnn) → i ≠ .ret → t.sp = s.sp) ∧
    ((∀ nnn, i ≠ .ldI nnn) → (∀ x, i ≠ .addI x) → (∀ x, i ≠ .ldF x) →
      (s.cfg.memInc = .unchanged ∨ (∀ x, i ≠ .stRegs x) ∧ ∀ x, i ≠ .ldRegs x) → t.i = s.i)

/-! ## Reset and the host's events -/

/-- R38, R280 (the key and halt values are the spec's decisions D14, D19): the values after reset, for
every legal configuration. That an address above 4095, which R77 does not allocate, reads as 0 is the
model's choice (log entry 15). -/
def Obligations.ResetValues : Prop :=
  ∀ c : Config, c.wf →
    (∀ k, (State.resetWith c).getV k = 0) ∧ (State.resetWith c).i = 0 ∧
    (State.resetWith c).pc = 512 ∧ (State.resetWith c).sp = 0 ∧
    (∀ k, k < c.stackCapacity → (State.resetWith c).stack[k]? = some 0) ∧
    (State.resetWith c).dt = 0 ∧ (State.resetWith c).st = 0 ∧
    (∀ k, (State.resetWith c).keyDown k = false) ∧
    (∀ px py, (State.resetWith c).fb.pixel px py = false) ∧
    (∀ k : Fin 80, (State.resetWith c).readByte (c.fontBase + k.val) = c.font.get k) ∧
    (∀ a, a < c.fontBase ∨ c.fontBase + 80 ≤ a → (State.resetWith c).readByte a = 0) ∧
    (State.resetWith c).haltCause = .running ∧ (State.resetWith c).haltPc = 0 ∧
    (State.resetWith c).haltInfo = 0

/-- R48, R282 (the spec's decision D19): `reset()` in every state, halted or not, answers the reset state
of the machine's own configuration (the environment's draws are not the machine's, log entry 3). -/
def Obligations.ResetEventRestartsCore : Prop :=
  ∀ s : State, ∃ t, applyEvent .reset s = .next t ∧
    { t with draws := [], drawCount := 0 } = State.resetWith s.cfg

/-- R38, R46, R61 (the spec's decision D19): `loadProgram` right after reset puts the image at 512 and
changes nothing else. -/
def Obligations.LoadProgramPlacesImage : Prop :=
  ∀ (c : Config) (bytes : List Byte), c.wf → bytes.length ≤ 3584 →
    ∃ t, applyEvent (.loadProgram bytes) (State.resetWith c) = .next t ∧
      (∀ (k : Nat) (h : k < bytes.length), t.readByte (512 + k) = bytes[k]) ∧
      t.pc = (State.resetWith c).pc ∧
      Frame { bytes := bytesAt 512 bytes.length } (State.resetWith c) t

/-- R46, U14 (the spec's decision D19): an image over 3584 bytes, or a load into a machine that is not
right after reset, has no transition. -/
def Obligations.LoadProgramRefused : Prop :=
  ∀ (s : State) (bytes : List Byte),
    (3584 < bytes.length → applyEvent (.loadProgram bytes) s = .refused .imageTooLong) ∧
    (bytes.length ≤ 3584 → { s with draws := [], drawCount := 0 } ≠ State.resetWith s.cfg →
      applyEvent (.loadProgram bytes) s = .refused .loadNotAfterReset)

/-- R42, R250, R251: a tick lowers each nonzero timer by one, leaves a zero one, and changes nothing
else, in every state, halted or not. -/
def Obligations.TickCountsDownBothTimers : Prop :=
  ∀ s : State, ∃ t, applyEvent .tick s = .next t ∧
    t.dt.toNat = s.dt.toNat - 1 ∧ t.st.toNat = s.st.toNat - 1 ∧
    t = { s with dt := t.dt, st := t.st }

/-- R253 (2): after `n` ticks with no write, a timer holds `max(v - n, 0)`. -/
def Obligations.TicksCountDownToZero : Prop :=
  ∀ (s : State) (n : Nat),
    (State.tick^[n] s).dt.toNat = s.dt.toNat - n ∧ (State.tick^[n] s).st.toNat = s.st.toNat - n

/-- R43, R44, R45: `setKey` sets the one key and nothing else, and the two observers answer `KEY[k]` and
`FB` and change nothing. That the index is a number, and one above 15 is refused (U15), is the model's
choice (log entry 11). -/
def Obligations.SetKeySetsOneKey : Prop :=
  ∀ (s : State) (k : Nat) (p : Bool),
    (k < 16 → ∃ t, applyEvent (.setKey k p) s = .next t ∧ keyState k t = some p ∧
      (∀ j, j < 16 → j ≠ k → keyState j t = keyState j s) ∧ t = { s with key := t.key }) ∧
    (k < 16 → applyEvent (.keyState k) s = .next s ∧ keyState k s = s.key[k]?) ∧
    (16 ≤ k → applyEvent (.setKey k p) s = .refused .keyIndexOutOfRange ∧
      applyEvent (.keyState k) s = .refused .keyIndexOutOfRange) ∧
    applyEvent .getFramebuffer s = .next s ∧ getFramebuffer s = s.fb

/-! ## Control flow -/

/-- R130. -/
def Obligations.JumpSetsPc : Prop :=
  ∀ (s : State) (nnn : Addr), Completes (.jp nnn) s fun t =>
    t.pc.toNat = nnn.toNat ∧ Frame {} s t ∧ (s.pc.toNat = nnn.toNat → t = s)

/-- R131, on a stack with room: the return address goes to slot `SP`. -/
def Obligations.CallPushesReturnAddress : Prop :=
  ∀ (s : State) (nnn : Addr), s.sp < s.cfg.stackCapacity →
    s.stack.length = s.cfg.stackCapacity → Completes (.call nnn) s fun t =>
      t.pc.toNat = nnn.toNat ∧ t.sp = s.sp + 1 ∧ t.stack[s.sp]? = some (s.pc + 2) ∧
      Frame { sp := true, slots := fun k => k == s.sp } s t

/-- R132, on a stack that is not empty: the top entry becomes `PC`, its slot keeps its value. -/
def Obligations.ReturnPopsIntoPc : Prop :=
  ∀ (s : State) (w : Word), s.sp ≠ 0 → s.stack[s.sp - 1]? = some w → Completes .ret s fun t =>
    t.pc = w ∧ t.sp = s.sp - 1 ∧ Frame { sp := true } s t

/-- R131, R132, R241, R242 (the halt registers are the spec's decision D14): a call on a full stack and a
return on an empty one raise, and change only the halt registers. -/
def Obligations.StackMisuseRaises : Prop :=
  (∀ (s : State) (nnn : Addr), s.sp = s.cfg.stackCapacity →
    exec (.call nnn) s = .next (s.haltedWith .stackOverflow 0)) ∧
  ∀ s : State, s.sp = 0 → exec .ret s = .next (s.haltedWith .stackUnderflow 0)

/-- Log entry 6, the model's choice: where the stack slot that a call or a return names does not exist,
which the invariant rules out, the model stops by name. -/
def Obligations.MissingStackSlotFaults : Prop :=
  (∀ (s : State) (nnn : Addr), s.sp ≠ s.cfg.stackCapacity → s.stack.length ≤ s.sp →
    exec (.call nnn) s = .fault .noStackSlot) ∧
  ∀ s : State, s.sp ≠ 0 → s.stack.length ≤ s.sp - 1 → exec .ret s = .fault .noStackSlot

/-- R141: the return that finds the call's entry on top goes to the instruction after the call, and the
depth is as before the call. -/
def Obligations.ReturnFollowsCall : Prop :=
  ∀ (s t u : State) (nnn : Addr), s.sp < s.cfg.stackCapacity →
    s.stack.length = s.cfg.stackCapacity → exec (.call nnn) s = .next t →
    u.sp = t.sp → (∀ k, k < t.sp → u.stack[k]? = t.stack[k]?) →
    Completes .ret u fun w => w.pc = s.pc + 2 ∧ w.sp = s.sp

/-- R133 (the unreduced sum is the spec's decision D2). -/
def Obligations.JumpV0AddsOffset : Prop :=
  ∀ (s : State) (nnn : Addr), Completes (.jpV0 nnn) s fun t =>
    t.pc.toNat = (s.getV 0).toNat + nnn.toNat ∧ Frame {} s t

/-- R134, R135, R138: the skips on an immediate. -/
def Obligations.SkipsOnImmediate : Prop :=
  ∀ (s : State) (x : Nibble) (nn : Byte),
    (Completes (.seImm x nn) s fun t =>
      t.pc = (if s.getV x = nn then s.pc + 4 else s.pc + 2) ∧ Frame {} s t) ∧
    Completes (.sneImm x nn) s fun t =>
      t.pc = (if s.getV x = nn then s.pc + 2 else s.pc + 4) ∧ Frame {} s t

/-- R136, R137, R138: the skips on two registers. -/
def Obligations.SkipsOnRegisters : Prop :=
  ∀ (s : State) (x y : Nibble),
    (Completes (.seReg x y) s fun t =>
      t.pc = (if s.getV x = s.getV y then s.pc + 4 else s.pc + 2) ∧ Frame {} s t) ∧
    Completes (.sneReg x y) s fun t =>
      t.pc = (if s.getV x = s.getV y then s.pc + 2 else s.pc + 4) ∧ Frame {} s t

/-! ## Register and ALU instructions -/

/-- R151. -/
def Obligations.LoadImmediateSetsRegister : Prop :=
  ∀ (s : State) (x : Nibble) (nn : Byte), Completes (.ldImm x nn) s fun t =>
    t.getV x = nn ∧ t.pc = s.pc + 2 ∧ Frame { v := onlyV x } s t

/-- R152: the sum modulo 256, no flag, and the source's wraparound law for two adds in sequence. -/
def Obligations.AddImmediateWraps : Prop :=
  ∀ (s : State) (x : Nibble) (nn mm : Byte), Completes (.addImm x nn) s fun t =>
    (t.getV x).toNat = ((s.getV x).toNat + nn.toNat) % 256 ∧ t.pc = s.pc + 2 ∧
    Frame { v := onlyV x } s t ∧
    Completes (.addImm x mm) t fun u =>
      (u.getV x).toNat = ((s.getV x).toNat + nn.toNat + mm.toNat) % 256

/-- R153, R154, R155, R156: copy, OR, AND, XOR; no flag. -/
def Obligations.CopyAndLogicSetRegister : Prop :=
  ∀ (s : State) (x y : Nibble),
    (Completes (.ldReg x y) s fun t =>
      t.getV x = s.getV y ∧ t.pc = s.pc + 2 ∧ Frame { v := onlyV x } s t) ∧
    (Completes (.orReg x y) s fun t =>
      t.getV x = s.getV x ||| s.getV y ∧ t.pc = s.pc + 2 ∧ Frame { v := onlyV x } s t) ∧
    (Completes (.andReg x y) s fun t =>
      t.getV x = s.getV x &&& s.getV y ∧ t.pc = s.pc + 2 ∧ Frame { v := onlyV x } s t) ∧
    Completes (.xorReg x y) s fun t =>
      t.getV x = s.getV x ^^^ s.getV y ∧ t.pc = s.pc + 2 ∧ Frame { v := onlyV x } s t

/-- R157: `V[x]` is the sum modulo 256, and VF the carry unless VF is the destination (with `x` or `y` 15
the values are those of R157's corner cases, which the source's own temporary settles, R150). -/
def Obligations.AddRegisterSetsCarry : Prop :=
  ∀ (s : State) (x y : Nibble), Completes (.addReg x y) s fun t =>
    (t.getV x).toNat = ((s.getV x).toNat + (s.getV y).toNat) % 256 ∧
    (x ≠ vf → t.getV vf = if 255 < (s.getV x).toNat + (s.getV y).toNat then 1 else 0) ∧
    t.pc = s.pc + 2 ∧ Frame { v := onlyVAndVF x } s t

/-- R158, R160, R166 (with `x` or `y` 15: the spec's decision D11, R150): both subtractions write `V[x]`,
and VF is 1 when no borrow occurs unless VF is the destination. -/
def Obligations.SubtractSetsNoBorrow : Prop :=
  ∀ (s : State) (x y : Nibble),
    (Completes (.sub x y) s fun t =>
      (t.getV x).toNat = (256 + (s.getV x).toNat - (s.getV y).toNat) % 256 ∧
      (x ≠ vf → t.getV vf = if (s.getV y).toNat ≤ (s.getV x).toNat then 1 else 0) ∧
      t.pc = s.pc + 2 ∧ Frame { v := onlyVAndVF x } s t) ∧
    Completes (.subn x y) s fun t =>
      (t.getV x).toNat = (256 + (s.getV y).toNat - (s.getV x).toNat) % 256 ∧
      (x ≠ vf → t.getV vf = if (s.getV x).toNat ≤ (s.getV y).toNat then 1 else 0) ∧
      t.pc = s.pc + 2 ∧ Frame { v := onlyVAndVF x } s t

/-- R159, R161, R166 (with `x` or `y` 15: the spec's decision D11; under `VY` the write to `V[x]` alone is
the spec's general knowledge G4, log entry 8): the shifts by one, for both values of `Q_SHIFT_SRC`. -/
def Obligations.ShiftsMoveOneBit : Prop :=
  ∀ (s : State) (x y : Nibble) (src : Byte),
    src = (if s.cfg.shiftSrc = .vx then s.getV x else s.getV y) →
    (Completes (.shr x y) s fun t =>
      (t.getV x).toNat = src.toNat / 2 ∧
      (x ≠ vf → (t.getV vf).toNat = src.toNat % 2) ∧
      t.pc = s.pc + 2 ∧ Frame { v := onlyVAndVF x } s t) ∧
    Completes (.shl x y) s fun t =>
      (t.getV x).toNat = src.toNat * 2 % 256 ∧
      (x ≠ vf → (t.getV vf).toNat = src.toNat / 128) ∧
      t.pc = s.pc + 2 ∧ Frame { v := onlyVAndVF x } s t

/-- R124, R162 (the random byte as an input is the spec's decision D17; where it stands in the state is
log entry 3): `V[x]` is the draw masked with `nn`, for a draw the environment has chosen and for a free one. -/
def Obligations.RandomIsMaskedDraw : Prop :=
  ∀ (s : State) (x : Nibble) (nn : Byte), Completes (.rnd x nn) s fun t =>
    (∀ r rs, s.draws = r :: rs →
      t.getV x = r &&& nn ∧ t.draws = rs ∧ t.drawCount = s.drawCount) ∧
    (s.draws = [] → t.getV x = Config.randomByte s.drawCount &&& nn ∧ t.draws = [] ∧
      t.drawCount = s.drawCount + 1) ∧
    (∀ k, nn.getLsbD k = false → (t.getV x).getLsbD k = false) ∧
    t.pc = s.pc + 2 ∧ Frame { v := onlyV x, draws := true } s t

/-- R41, R120, R124 (the spec's decision D17; the draw fields are log entry 3): the event step(r) is the
step with `r` as its draw and the later draws kept; where no `Cxnn` is fetched it is the step itself; and
where one is, its random byte is `r`. -/
def Obligations.StepEventSuppliesRandomByte : Prop :=
  ∀ (s : State) (r : Byte),
    stepEvent r s = withDraws s.draws s.drawCount (step { s with draws := r :: s.draws }) ∧
    ((∀ x nn, s.fetch ≠ .run (.rnd x nn)) → stepEvent r s = step s) ∧
    ∀ x nn, s.fetch = .run (.rnd x nn) →
      ∃ t, stepEvent r s = .next t ∧ t.getV x = r &&& nn ∧ t.pc = s.pc + 2 ∧
        Frame { v := onlyV x } s t

/-- R124: no instruction but `Cxnn` depends on the random byte. -/
def Obligations.OnlyRandomReadsTheDraw : Prop :=
  ∀ (i : Instr) (s : State) (ds : List Byte) (n : Nat), (∀ x nn, i ≠ .rnd x nn) →
    exec i { s with draws := ds, drawCount := n } = withDraws ds n (exec i s)

/-- R165 (1): an add followed by the subtraction of the same register restores `V[x]`. -/
def Obligations.SubtractUndoesAdd : Prop :=
  ∀ (s : State) (x y : Nibble), x ≠ vf → y ≠ vf → x ≠ y →
    Completes (.addReg x y) s fun t => Completes (.sub x y) t fun u => u.getV x = s.getV x

/-! ## Index register and memory -/

/-- R183. -/
def Obligations.LoadIndexImmediate : Prop :=
  ∀ (s : State) (nnn : Addr), Completes (.ldI nnn) s fun t =>
    t.i.toNat = nnn.toNat ∧ t.pc = s.pc + 2 ∧ Frame { i := true } s t

/-- R184 (the modulus is the spec's decision D4, the threshold under `ON` its general knowledge G2, log
entry 8): `I` wraps modulo 65536; VF is written under `ON` only. -/
def Obligations.AddToIndexWraps : Prop :=
  ∀ (s : State) (x : Nibble), Completes (.addI x) s fun t =>
    t.i.toNat = (s.i.toNat + (s.getV x).toNat) % 65536 ∧
    (s.cfg.indexCarry = .on → t.getV vf = if 4095 < s.i.toNat + (s.getV x).toNat then 1 else 0) ∧
    t.pc = s.pc + 2 ∧
    Frame { i := true, v := fun k => s.cfg.indexCarry == .on && k == vf } s t

/-- R185 (the digit as the low four bits is the spec's decision D12), for a legal `FONT_BASE`. -/
def Obligations.GlyphAddressOfDigit : Prop :=
  ∀ (s : State) (x : Nibble), s.cfg.wf → Completes (.ldF x) s fun t =>
    t.i.toNat = s.cfg.fontBase + 5 * ((s.getV x).toNat % 16) ∧ t.pc = s.pc + 2 ∧
    Frame { i := true } s t

/-- R186, in range: the three digits, hundreds first, and nothing else. -/
def Obligations.BcdStoresThreeDigits : Prop :=
  ∀ (s : State) (x : Nibble), s.i.toNat + 2 ≤ 4095 → Completes (.ldB x) s fun t =>
    (t.readByte s.i.toNat).toNat = (s.getV x).toNat / 100 ∧
    (t.readByte (s.i.toNat + 1)).toNat = (s.getV x).toNat / 10 % 10 ∧
    (t.readByte (s.i.toNat + 2)).toNat = (s.getV x).toNat % 10 ∧
    t.pc = s.pc + 2 ∧ Frame { bytes := bytesAt s.i.toNat 3 } s t

/-- R187, R190, in range: `MEM[I + k] = V[k]` for `k` up to `x`; `I` moves by `x + 1` under `X_PLUS_1`
only. -/
def Obligations.StoreRegistersToMemory : Prop :=
  ∀ (s : State) (x : Nibble), s.i.toNat + x.toNat ≤ 4095 → Completes (.stRegs x) s fun t =>
    (∀ k : Nibble, k.toNat ≤ x.toNat → t.readByte (s.i.toNat + k.toNat) = s.getV k) ∧
    (s.cfg.memInc = .xPlus1 → t.i.toNat = s.i.toNat + x.toNat + 1) ∧
    t.pc = s.pc + 2 ∧
    Frame { i := s.cfg.memInc == .xPlus1, bytes := bytesAt s.i.toNat (x.toNat + 1) } s t

/-- R188, R190, in range: `V[k] = MEM[I + k]` for `k` up to `x`; `I` moves by `x + 1` under `X_PLUS_1`
only. -/
def Obligations.LoadRegistersFromMemory : Prop :=
  ∀ (s : State) (x : Nibble), s.i.toNat + x.toNat ≤ 4095 → Completes (.ldRegs x) s fun t =>
    (∀ k : Nibble, k.toNat ≤ x.toNat → t.getV k = s.readByte (s.i.toNat + k.toNat)) ∧
    (s.cfg.memInc = .xPlus1 → t.i.toNat = s.i.toNat + x.toNat + 1) ∧
    t.pc = s.pc + 2 ∧
    Frame { i := s.cfg.memInc == .xPlus1, v := fun k => decide (k.toNat ≤ x.toNat) } s t

/-- R64, R70, R243 (the spec's decisions D1, D14, D15): a data access that leaves 0..4095 raises
OutOfBoundsAddress with `HALT_INFO = max(I, 4096)` and changes only the halt registers. -/
def Obligations.DataOutOfRangeRaises : Prop :=
  ∀ (s t : State) (x y n : Nibble),
    t = s.haltedWith .outOfBoundsAddress (BitVec.ofNat 16 (max s.i.toNat 4096)) →
    (4095 < s.i.toNat + 2 → exec (.ldB x) s = .next t) ∧
    (4095 < s.i.toNat + x.toNat → exec (.stRegs x) s = .next t ∧ exec (.ldRegs x) s = .next t) ∧
    (n ≠ 0 → 4095 < s.i.toNat + n.toNat - 1 → exec (.drw x y n) s = .next t)

/-- R189: `Annn`, `Fx55`, `Fx65` with `x = 0` round-trip V0 through memory under `Q_MEM_INC = NONE`. -/
def Obligations.StoreThenLoadReturnsV0 : Prop :=
  ∀ (s : State) (nnn : Addr), s.cfg.memInc = .unchanged →
    Completes (.ldI nnn) s fun t => Completes (.stRegs 0) t fun u =>
      Completes (.ldRegs 0) u fun w =>
        w.getV 0 = s.getV 0 ∧ w.readByte nnn.toNat = s.getV 0 ∧ w.i.toNat = nnn.toNat

/-- R67, R74: a word stored by `Fx55` at the next instruction's address is what the next step fetches. -/
def Obligations.StoredWordIsFetchedNext : Prop :=
  ∀ (s : State) (x : Nibble), x ≠ 0 → s.i.toNat + x.toNat ≤ 4095 → s.i = s.pc + 2 →
    Completes (.stRegs x) s fun t =>
      t.fetchWord.toNat = (s.getV 0).toNat * 256 + (s.getV 1).toNat

/-! ## Display -/

/-- R205. -/
def Obligations.ClearScreenClearsEveryPixel : Prop :=
  ∀ s : State, Completes .cls s fun t =>
    (∀ px py, t.fb.pixel px py = false) ∧ t.pc = s.pc + 2 ∧ Frame { fb := true } s t

/-- R202, R204, R206, R208 (for both edge policies): the row-by-row compositor is the parallel update; a
covered pixel is inverted, every other is kept, and VF is 1 exactly when a covered pixel was set. In
range, or with `n = 0`. -/
def Obligations.DrawInvertsCoveredPixels : Prop :=
  ∀ (s : State) (x y n : Nibble), (n = 0 ∨ s.i.toNat + n.toNat - 1 ≤ 4095) →
    Completes (.drw x y n) s fun t =>
      (∀ px py, (SpriteCovers s x y n px py → t.fb.pixel px py = !s.fb.pixel px py) ∧
        (¬ SpriteCovers s x y n px py → t.fb.pixel px py = s.fb.pixel px py)) ∧
      (SpriteCollides s x y n → t.getV vf = 1) ∧
      (¬ SpriteCollides s x y n → t.getV vf = 0) ∧
      t.pc = s.pc + 2 ∧ Frame { fb := true, v := onlyV vf } s t

/-- R207: drawing the same sprite twice restores the display, and the second draw reports a collision
exactly when a covered pixel was clear before the first. -/
def Obligations.DrawTwiceRestoresDisplay : Prop :=
  ∀ (s : State) (x y n : Nibble), x ≠ vf → y ≠ vf → (n = 0 ∨ s.i.toNat + n.toNat - 1 ≤ 4095) →
    Completes (.drw x y n) s fun t => Completes (.drw x y n) t fun u =>
      u.fb = s.fb ∧
      (u.getV vf = 1 ↔ ∃ px py, SpriteCovers s x y n px py ∧ s.fb.pixel px py = false)

/-! ## Timers and keypad -/

/-- R221, R222, R223. -/
def Obligations.TimerInstructionsMoveTimers : Prop :=
  ∀ (s : State) (x : Nibble),
    (Completes (.ldVxDt x) s fun t =>
      t.getV x = s.dt ∧ t.pc = s.pc + 2 ∧ Frame { v := onlyV x } s t) ∧
    (Completes (.ldDtVx x) s fun t =>
      t.dt = s.getV x ∧ t.pc = s.pc + 2 ∧ Frame { dt := true } s t) ∧
    Completes (.ldStVx x) s fun t =>
      t.st = s.getV x ∧ t.pc = s.pc + 2 ∧ Frame { st := true } s t

/-- R231, R232, R138 (the key as the low four bits is the spec's decision D13). -/
def Obligations.KeySkipsTestOneKey : Prop :=
  ∀ (s : State) (x k : Nibble), k.toNat = (s.getV x).toNat % 16 →
    (Completes (.skp x) s fun t =>
      t.pc = (if s.keyDown k then s.pc + 4 else s.pc + 2) ∧ Frame {} s t) ∧
    Completes (.sknp x) s fun t =>
      t.pc = (if s.keyDown k then s.pc + 2 else s.pc + 4) ∧ Frame {} s t

/-- R127, R233: with no key down nothing at all changes; else `V[x]` is the lowest key down. -/
def Obligations.WaitForKeyTakesLowest : Prop :=
  ∀ (s : State) (x : Nibble),
    ((∀ k, s.keyDown k = false) → exec (.ldVxK x) s = .next s) ∧
    (∀ k : Nibble, s.keyDown k = true → (∀ j : Nibble, j.toNat < k.toNat → s.keyDown j = false) →
      Completes (.ldVxK x) s fun t =>
        (t.getV x).toNat = k.toNat ∧ t.pc = s.pc + 2 ∧ Frame { v := onlyV x } s t)
end

