-- ==== Sys2Proof/Laws/Decode.lean ====
section
/-!
SUPPORT. The fields of an encoded word, one lemma per format and field, and the words of each format.
-/
namespace Sys2Proof
variable (c x y n : Nibble) (nn : Byte) (nnn : Addr)

@[simp] theorem fieldClass_encNNN : fieldClass (encNNN c nnn) = c :=
  BitVec.extractLsb'_append_eq_left

@[simp] theorem fieldNNN_encNNN : fieldNNN (encNNN c nnn) = nnn :=
  BitVec.extractLsb'_append_eq_right

theorem toNat_encXNN : (encXNN c x nn).toNat = c.toNat * 4096 + x.toNat * 256 + nn.toNat := by
  unfold encXNN
  rw [BitVec.toNat_append, BitVec.toNat_append, ← Nat.shiftLeft_add_eq_or_of_lt nn.isLt,
    ← Nat.shiftLeft_add_eq_or_of_lt (by have := x.isLt; have := nn.isLt; rw [Nat.shiftLeft_eq]; omega)]
  simp only [Nat.shiftLeft_eq]
  omega

theorem toNat_encXYN :
    (encXYN c x y n).toNat = c.toNat * 4096 + x.toNat * 256 + y.toNat * 16 + n.toNat := by
  have h : encXYN c x y n = encXNN c x (y ++ n) := rfl
  rw [h, toNat_encXNN, BitVec.toNat_append, ← Nat.shiftLeft_add_eq_or_of_lt n.isLt, Nat.shiftLeft_eq]
  omega

@[simp] theorem fieldClass_encXNN : fieldClass (encXNN c x nn) = c :=
  BitVec.extractLsb'_append_eq_left

@[simp] theorem fieldX_encXNN : fieldX (encXNN c x nn) = x := by
  apply BitVec.eq_of_toNat_eq
  have := x.isLt; have := nn.isLt
  rw [fieldX, BitVec.extractLsb'_toNat, toNat_encXNN, Nat.shiftRight_eq_div_pow]
  omega

@[simp] theorem fieldNN_encXNN : fieldNN (encXNN c x nn) = nn := by
  apply BitVec.eq_of_toNat_eq
  have := nn.isLt
  rw [fieldNN, BitVec.extractLsb'_toNat, toNat_encXNN, Nat.shiftRight_eq_div_pow]
  omega

@[simp] theorem fieldClass_encXYN : fieldClass (encXYN c x y n) = c :=
  BitVec.extractLsb'_append_eq_left

@[simp] theorem fieldX_encXYN : fieldX (encXYN c x y n) = x :=
  fieldX_encXNN c x (y ++ n)

@[simp] theorem fieldY_encXYN : fieldY (encXYN c x y n) = y := by
  apply BitVec.eq_of_toNat_eq
  have := y.isLt; have := n.isLt
  rw [fieldY, BitVec.extractLsb'_toNat, toNat_encXYN, Nat.shiftRight_eq_div_pow]
  omega

@[simp] theorem fieldN_encXYN : fieldN (encXYN c x y n) = n := by
  apply BitVec.eq_of_toNat_eq
  have := n.isLt
  rw [fieldN, BitVec.extractLsb'_toNat, toNat_encXYN, Nat.shiftRight_eq_div_pow]
  omega

/-- A word is its class and `nnn` (R92). -/
theorem encNNN_fields (ir : Word) : encNNN (fieldClass ir) (fieldNNN ir) = ir := by
  apply BitVec.eq_of_toNat_eq
  rw [encNNN, BitVec.toNat_append, ← Nat.shiftLeft_add_eq_or_of_lt (fieldNNN ir).isLt]
  simp only [fieldClass, fieldNNN, BitVec.extractLsb'_toNat, Nat.shiftLeft_eq, Nat.shiftRight_eq_div_pow]
  have := ir.isLt
  omega

/-- A word is its class, `x` and `nn` (R92). -/
theorem encXNN_fields (ir : Word) : encXNN (fieldClass ir) (fieldX ir) (fieldNN ir) = ir := by
  apply BitVec.eq_of_toNat_eq
  rw [toNat_encXNN]
  simp only [fieldClass, fieldX, fieldNN, BitVec.extractLsb'_toNat, Nat.shiftRight_eq_div_pow]
  have := ir.isLt
  omega

/-- A word is its class, `x`, `y` and `n` (R92). -/
theorem encXYN_fields (ir : Word) :
    encXYN (fieldClass ir) (fieldX ir) (fieldY ir) (fieldN ir) = ir := by
  apply BitVec.eq_of_toNat_eq
  rw [toNat_encXYN]
  simp only [fieldClass, fieldX, fieldY, fieldN, BitVec.extractLsb'_toNat, Nat.shiftRight_eq_div_pow]
  have := ir.isLt
  omega

/-- Masking with 0xF000 keeps the class (R96). -/
theorem encNNN_mask : encNNN c nnn &&& 0xF000 = encNNN c 0 := by
  rw [show (0xF000 : Word) = (0xF#4 ++ 0#12 : BitVec (4 + 12)) from rfl, encNNN, encNNN, BitVec.and_append,
    show (0xF#4 : Nibble) = BitVec.allOnes 4 from rfl, BitVec.and_allOnes, BitVec.and_zero]
  rfl

theorem encXNN_mask : encXNN c x nn &&& 0xF000 = encXNN c 0 0 :=
  encNNN_mask c (x ++ nn)

/-- Masking with 0xF0FF keeps the class and the bottom byte (R96). -/
theorem encXNN_maskKK : encXNN c x nn &&& 0xF0FF = encXNN c 0 nn := by
  rw [show (0xF0FF : Word) = (0xF#4 ++ (0#4 ++ 0xFF#8) : BitVec (4 + (4 + 8))) from rfl, encXNN, encXNN,
    BitVec.and_append, BitVec.and_append, show (0xF#4 : Nibble) = BitVec.allOnes 4 from rfl,
    show (0xFF#8 : Byte) = BitVec.allOnes 8 from rfl, BitVec.and_allOnes, BitVec.and_allOnes, BitVec.and_zero]
  rfl

/-- Masking with 0xF00F keeps the class and the bottom nibble (R96). -/
theorem encXYN_maskK : encXYN c x y n &&& 0xF00F = encXYN c 0 0 n := by
  rw [show (0xF00F : Word) = (0xF#4 ++ (0#4 ++ (0#4 ++ 0xF#4)) : BitVec (4 + (4 + (4 + 4)))) from rfl,
    encXYN, encXYN, BitVec.and_append, BitVec.and_append, BitVec.and_append,
    show (0xF#4 : Nibble) = BitVec.allOnes 4 from rfl, BitVec.and_allOnes, BitVec.and_allOnes,
    BitVec.and_zero, BitVec.and_zero]
  rfl

theorem encXYN_mask : encXYN c x y n &&& 0xF000 = encXYN c 0 0 0 :=
  encNNN_mask c (x ++ (y ++ n))

end Sys2Proof
end

