-- ==== Sys2Proof/Laws/State.lean ====
section
/-!
SUPPORT. One lemma per field (and per view: getV, readByte, keyDown) per update of the state, so that no
proof unfolds a record update.
-/
namespace Sys2Proof.Machine
variable (s : State)


/-! `State.setV` -/

@[simp] theorem setV_cfg (x : Nibble) (b : Byte) : (s.setV x b).cfg = s.cfg := rfl
@[simp] theorem setV_i (x : Nibble) (b : Byte) : (s.setV x b).i = s.i := rfl
@[simp] theorem setV_pc (x : Nibble) (b : Byte) : (s.setV x b).pc = s.pc := rfl
@[simp] theorem setV_sp (x : Nibble) (b : Byte) : (s.setV x b).sp = s.sp := rfl
@[simp] theorem setV_stack (x : Nibble) (b : Byte) : (s.setV x b).stack = s.stack := rfl
@[simp] theorem setV_dt (x : Nibble) (b : Byte) : (s.setV x b).dt = s.dt := rfl
@[simp] theorem setV_st (x : Nibble) (b : Byte) : (s.setV x b).st = s.st := rfl
@[simp] theorem setV_key (x : Nibble) (b : Byte) : (s.setV x b).key = s.key := rfl
@[simp] theorem setV_fb (x : Nibble) (b : Byte) : (s.setV x b).fb = s.fb := rfl
@[simp] theorem setV_mem (x : Nibble) (b : Byte) : (s.setV x b).mem = s.mem := rfl
@[simp] theorem setV_haltCause (x : Nibble) (b : Byte) : (s.setV x b).haltCause = s.haltCause := rfl
@[simp] theorem setV_haltPc (x : Nibble) (b : Byte) : (s.setV x b).haltPc = s.haltPc := rfl
@[simp] theorem setV_haltInfo (x : Nibble) (b : Byte) : (s.setV x b).haltInfo = s.haltInfo := rfl
@[simp] theorem setV_draws (x : Nibble) (b : Byte) : (s.setV x b).draws = s.draws := rfl
@[simp] theorem setV_drawCount (x : Nibble) (b : Byte) : (s.setV x b).drawCount = s.drawCount := rfl
@[simp] theorem setV_readByte (x : Nibble) (b : Byte) (a : Nat) : (s.setV x b).readByte a = s.readByte a := rfl
@[simp] theorem setV_keyDown (x : Nibble) (b : Byte) (k : Nibble) : (s.setV x b).keyDown k = s.keyDown k := rfl

/-! `State.setI` -/

@[simp] theorem setI_cfg (w : Word) : (s.setI w).cfg = s.cfg := rfl
@[simp] theorem setI_v (w : Word) : (s.setI w).v = s.v := rfl
@[simp] theorem setI_i (w : Word) : (s.setI w).i = w := rfl
@[simp] theorem setI_pc (w : Word) : (s.setI w).pc = s.pc := rfl
@[simp] theorem setI_sp (w : Word) : (s.setI w).sp = s.sp := rfl
@[simp] theorem setI_stack (w : Word) : (s.setI w).stack = s.stack := rfl
@[simp] theorem setI_dt (w : Word) : (s.setI w).dt = s.dt := rfl
@[simp] theorem setI_st (w : Word) : (s.setI w).st = s.st := rfl
@[simp] theorem setI_key (w : Word) : (s.setI w).key = s.key := rfl
@[simp] theorem setI_fb (w : Word) : (s.setI w).fb = s.fb := rfl
@[simp] theorem setI_mem (w : Word) : (s.setI w).mem = s.mem := rfl
@[simp] theorem setI_haltCause (w : Word) : (s.setI w).haltCause = s.haltCause := rfl
@[simp] theorem setI_haltPc (w : Word) : (s.setI w).haltPc = s.haltPc := rfl
@[simp] theorem setI_haltInfo (w : Word) : (s.setI w).haltInfo = s.haltInfo := rfl
@[simp] theorem setI_draws (w : Word) : (s.setI w).draws = s.draws := rfl
@[simp] theorem setI_drawCount (w : Word) : (s.setI w).drawCount = s.drawCount := rfl
@[simp] theorem setI_getV (w : Word) (k : Nibble) : (s.setI w).getV k = s.getV k := rfl
@[simp] theorem setI_readByte (w : Word) (a : Nat) : (s.setI w).readByte a = s.readByte a := rfl
@[simp] theorem setI_keyDown (w : Word) (k : Nibble) : (s.setI w).keyDown k = s.keyDown k := rfl

/-! `State.setPc` -/

@[simp] theorem setPc_cfg (w : Word) : (s.setPc w).cfg = s.cfg := rfl
@[simp] theorem setPc_v (w : Word) : (s.setPc w).v = s.v := rfl
@[simp] theorem setPc_i (w : Word) : (s.setPc w).i = s.i := rfl
@[simp] theorem setPc_pc (w : Word) : (s.setPc w).pc = w := rfl
@[simp] theorem setPc_sp (w : Word) : (s.setPc w).sp = s.sp := rfl
@[simp] theorem setPc_stack (w : Word) : (s.setPc w).stack = s.stack := rfl
@[simp] theorem setPc_dt (w : Word) : (s.setPc w).dt = s.dt := rfl
@[simp] theorem setPc_st (w : Word) : (s.setPc w).st = s.st := rfl
@[simp] theorem setPc_key (w : Word) : (s.setPc w).key = s.key := rfl
@[simp] theorem setPc_fb (w : Word) : (s.setPc w).fb = s.fb := rfl
@[simp] theorem setPc_mem (w : Word) : (s.setPc w).mem = s.mem := rfl
@[simp] theorem setPc_haltCause (w : Word) : (s.setPc w).haltCause = s.haltCause := rfl
@[simp] theorem setPc_haltPc (w : Word) : (s.setPc w).haltPc = s.haltPc := rfl
@[simp] theorem setPc_haltInfo (w : Word) : (s.setPc w).haltInfo = s.haltInfo := rfl
@[simp] theorem setPc_draws (w : Word) : (s.setPc w).draws = s.draws := rfl
@[simp] theorem setPc_drawCount (w : Word) : (s.setPc w).drawCount = s.drawCount := rfl
@[simp] theorem setPc_getV (w : Word) (k : Nibble) : (s.setPc w).getV k = s.getV k := rfl
@[simp] theorem setPc_readByte (w : Word) (a : Nat) : (s.setPc w).readByte a = s.readByte a := rfl
@[simp] theorem setPc_keyDown (w : Word) (k : Nibble) : (s.setPc w).keyDown k = s.keyDown k := rfl

/-! `State.setDt` -/

@[simp] theorem setDt_cfg (b : Byte) : (s.setDt b).cfg = s.cfg := rfl
@[simp] theorem setDt_v (b : Byte) : (s.setDt b).v = s.v := rfl
@[simp] theorem setDt_i (b : Byte) : (s.setDt b).i = s.i := rfl
@[simp] theorem setDt_pc (b : Byte) : (s.setDt b).pc = s.pc := rfl
@[simp] theorem setDt_sp (b : Byte) : (s.setDt b).sp = s.sp := rfl
@[simp] theorem setDt_stack (b : Byte) : (s.setDt b).stack = s.stack := rfl
@[simp] theorem setDt_dt (b : Byte) : (s.setDt b).dt = b := rfl
@[simp] theorem setDt_st (b : Byte) : (s.setDt b).st = s.st := rfl
@[simp] theorem setDt_key (b : Byte) : (s.setDt b).key = s.key := rfl
@[simp] theorem setDt_fb (b : Byte) : (s.setDt b).fb = s.fb := rfl
@[simp] theorem setDt_mem (b : Byte) : (s.setDt b).mem = s.mem := rfl
@[simp] theorem setDt_haltCause (b : Byte) : (s.setDt b).haltCause = s.haltCause := rfl
@[simp] theorem setDt_haltPc (b : Byte) : (s.setDt b).haltPc = s.haltPc := rfl
@[simp] theorem setDt_haltInfo (b : Byte) : (s.setDt b).haltInfo = s.haltInfo := rfl
@[simp] theorem setDt_draws (b : Byte) : (s.setDt b).draws = s.draws := rfl
@[simp] theorem setDt_drawCount (b : Byte) : (s.setDt b).drawCount = s.drawCount := rfl
@[simp] theorem setDt_getV (b : Byte) (k : Nibble) : (s.setDt b).getV k = s.getV k := rfl
@[simp] theorem setDt_readByte (b : Byte) (a : Nat) : (s.setDt b).readByte a = s.readByte a := rfl
@[simp] theorem setDt_keyDown (b : Byte) (k : Nibble) : (s.setDt b).keyDown k = s.keyDown k := rfl

/-! `State.setSt` -/

@[simp] theorem setSt_cfg (b : Byte) : (s.setSt b).cfg = s.cfg := rfl
@[simp] theorem setSt_v (b : Byte) : (s.setSt b).v = s.v := rfl
@[simp] theorem setSt_i (b : Byte) : (s.setSt b).i = s.i := rfl
@[simp] theorem setSt_pc (b : Byte) : (s.setSt b).pc = s.pc := rfl
@[simp] theorem setSt_sp (b : Byte) : (s.setSt b).sp = s.sp := rfl
@[simp] theorem setSt_stack (b : Byte) : (s.setSt b).stack = s.stack := rfl
@[simp] theorem setSt_dt (b : Byte) : (s.setSt b).dt = s.dt := rfl
@[simp] theorem setSt_st (b : Byte) : (s.setSt b).st = b := rfl
@[simp] theorem setSt_key (b : Byte) : (s.setSt b).key = s.key := rfl
@[simp] theorem setSt_fb (b : Byte) : (s.setSt b).fb = s.fb := rfl
@[simp] theorem setSt_mem (b : Byte) : (s.setSt b).mem = s.mem := rfl
@[simp] theorem setSt_haltCause (b : Byte) : (s.setSt b).haltCause = s.haltCause := rfl
@[simp] theorem setSt_haltPc (b : Byte) : (s.setSt b).haltPc = s.haltPc := rfl
@[simp] theorem setSt_haltInfo (b : Byte) : (s.setSt b).haltInfo = s.haltInfo := rfl
@[simp] theorem setSt_draws (b : Byte) : (s.setSt b).draws = s.draws := rfl
@[simp] theorem setSt_drawCount (b : Byte) : (s.setSt b).drawCount = s.drawCount := rfl
@[simp] theorem setSt_getV (b : Byte) (k : Nibble) : (s.setSt b).getV k = s.getV k := rfl
@[simp] theorem setSt_readByte (b : Byte) (a : Nat) : (s.setSt b).readByte a = s.readByte a := rfl
@[simp] theorem setSt_keyDown (b : Byte) (k : Nibble) : (s.setSt b).keyDown k = s.keyDown k := rfl

/-! `State.setFb` -/

@[simp] theorem setFb_cfg (f : Framebuffer) : (s.setFb f).cfg = s.cfg := rfl
@[simp] theorem setFb_v (f : Framebuffer) : (s.setFb f).v = s.v := rfl
@[simp] theorem setFb_i (f : Framebuffer) : (s.setFb f).i = s.i := rfl
@[simp] theorem setFb_pc (f : Framebuffer) : (s.setFb f).pc = s.pc := rfl
@[simp] theorem setFb_sp (f : Framebuffer) : (s.setFb f).sp = s.sp := rfl
@[simp] theorem setFb_stack (f : Framebuffer) : (s.setFb f).stack = s.stack := rfl
@[simp] theorem setFb_dt (f : Framebuffer) : (s.setFb f).dt = s.dt := rfl
@[simp] theorem setFb_st (f : Framebuffer) : (s.setFb f).st = s.st := rfl
@[simp] theorem setFb_key (f : Framebuffer) : (s.setFb f).key = s.key := rfl
@[simp] theorem setFb_fb (f : Framebuffer) : (s.setFb f).fb = f := rfl
@[simp] theorem setFb_mem (f : Framebuffer) : (s.setFb f).mem = s.mem := rfl
@[simp] theorem setFb_haltCause (f : Framebuffer) : (s.setFb f).haltCause = s.haltCause := rfl
@[simp] theorem setFb_haltPc (f : Framebuffer) : (s.setFb f).haltPc = s.haltPc := rfl
@[simp] theorem setFb_haltInfo (f : Framebuffer) : (s.setFb f).haltInfo = s.haltInfo := rfl
@[simp] theorem setFb_draws (f : Framebuffer) : (s.setFb f).draws = s.draws := rfl
@[simp] theorem setFb_drawCount (f : Framebuffer) : (s.setFb f).drawCount = s.drawCount := rfl
@[simp] theorem setFb_getV (f : Framebuffer) (k : Nibble) : (s.setFb f).getV k = s.getV k := rfl
@[simp] theorem setFb_readByte (f : Framebuffer) (a : Nat) : (s.setFb f).readByte a = s.readByte a := rfl
@[simp] theorem setFb_keyDown (f : Framebuffer) (k : Nibble) : (s.setFb f).keyDown k = s.keyDown k := rfl

/-! `State.setKey` -/

@[simp] theorem setKey_cfg (j : Nibble) (p : Bool) : (s.setKey j p).cfg = s.cfg := rfl
@[simp] theorem setKey_v (j : Nibble) (p : Bool) : (s.setKey j p).v = s.v := rfl
@[simp] theorem setKey_i (j : Nibble) (p : Bool) : (s.setKey j p).i = s.i := rfl
@[simp] theorem setKey_pc (j : Nibble) (p : Bool) : (s.setKey j p).pc = s.pc := rfl
@[simp] theorem setKey_sp (j : Nibble) (p : Bool) : (s.setKey j p).sp = s.sp := rfl
@[simp] theorem setKey_stack (j : Nibble) (p : Bool) : (s.setKey j p).stack = s.stack := rfl
@[simp] theorem setKey_dt (j : Nibble) (p : Bool) : (s.setKey j p).dt = s.dt := rfl
@[simp] theorem setKey_st (j : Nibble) (p : Bool) : (s.setKey j p).st = s.st := rfl
@[simp] theorem setKey_fb (j : Nibble) (p : Bool) : (s.setKey j p).fb = s.fb := rfl
@[simp] theorem setKey_mem (j : Nibble) (p : Bool) : (s.setKey j p).mem = s.mem := rfl
@[simp] theorem setKey_haltCause (j : Nibble) (p : Bool) : (s.setKey j p).haltCause = s.haltCause := rfl
@[simp] theorem setKey_haltPc (j : Nibble) (p : Bool) : (s.setKey j p).haltPc = s.haltPc := rfl
@[simp] theorem setKey_haltInfo (j : Nibble) (p : Bool) : (s.setKey j p).haltInfo = s.haltInfo := rfl
@[simp] theorem setKey_draws (j : Nibble) (p : Bool) : (s.setKey j p).draws = s.draws := rfl
@[simp] theorem setKey_drawCount (j : Nibble) (p : Bool) : (s.setKey j p).drawCount = s.drawCount := rfl
@[simp] theorem setKey_getV (j : Nibble) (p : Bool) (k : Nibble) : (s.setKey j p).getV k = s.getV k := rfl
@[simp] theorem setKey_readByte (j : Nibble) (p : Bool) (a : Nat) : (s.setKey j p).readByte a = s.readByte a := rfl

/-! `State.writeBytes` -/

@[simp] theorem writeBytes_cfg (n : Nat) (bs : List Byte) : (s.writeBytes n bs).cfg = s.cfg := rfl
@[simp] theorem writeBytes_v (n : Nat) (bs : List Byte) : (s.writeBytes n bs).v = s.v := rfl
@[simp] theorem writeBytes_i (n : Nat) (bs : List Byte) : (s.writeBytes n bs).i = s.i := rfl
@[simp] theorem writeBytes_pc (n : Nat) (bs : List Byte) : (s.writeBytes n bs).pc = s.pc := rfl
@[simp] theorem writeBytes_sp (n : Nat) (bs : List Byte) : (s.writeBytes n bs).sp = s.sp := rfl
@[simp] theorem writeBytes_stack (n : Nat) (bs : List Byte) : (s.writeBytes n bs).stack = s.stack := rfl
@[simp] theorem writeBytes_dt (n : Nat) (bs : List Byte) : (s.writeBytes n bs).dt = s.dt := rfl
@[simp] theorem writeBytes_st (n : Nat) (bs : List Byte) : (s.writeBytes n bs).st = s.st := rfl
@[simp] theorem writeBytes_key (n : Nat) (bs : List Byte) : (s.writeBytes n bs).key = s.key := rfl
@[simp] theorem writeBytes_fb (n : Nat) (bs : List Byte) : (s.writeBytes n bs).fb = s.fb := rfl
@[simp] theorem writeBytes_mem (n : Nat) (bs : List Byte) : (s.writeBytes n bs).mem = Memory.writeList s.cfg s.mem n bs := rfl
@[simp] theorem writeBytes_haltCause (n : Nat) (bs : List Byte) : (s.writeBytes n bs).haltCause = s.haltCause := rfl
@[simp] theorem writeBytes_haltPc (n : Nat) (bs : List Byte) : (s.writeBytes n bs).haltPc = s.haltPc := rfl
@[simp] theorem writeBytes_haltInfo (n : Nat) (bs : List Byte) : (s.writeBytes n bs).haltInfo = s.haltInfo := rfl
@[simp] theorem writeBytes_draws (n : Nat) (bs : List Byte) : (s.writeBytes n bs).draws = s.draws := rfl
@[simp] theorem writeBytes_drawCount (n : Nat) (bs : List Byte) : (s.writeBytes n bs).drawCount = s.drawCount := rfl
@[simp] theorem writeBytes_getV (n : Nat) (bs : List Byte) (k : Nibble) : (s.writeBytes n bs).getV k = s.getV k := rfl
@[simp] theorem writeBytes_keyDown (n : Nat) (bs : List Byte) (k : Nibble) : (s.writeBytes n bs).keyDown k = s.keyDown k := rfl

/-! `State.raise` -/

@[simp] theorem raise_cfg (c : HaltCause) (w : Word) : (s.raise c w).cfg = s.cfg := rfl
@[simp] theorem raise_v (c : HaltCause) (w : Word) : (s.raise c w).v = s.v := rfl
@[simp] theorem raise_i (c : HaltCause) (w : Word) : (s.raise c w).i = s.i := rfl
@[simp] theorem raise_pc (c : HaltCause) (w : Word) : (s.raise c w).pc = s.pc := rfl
@[simp] theorem raise_sp (c : HaltCause) (w : Word) : (s.raise c w).sp = s.sp := rfl
@[simp] theorem raise_stack (c : HaltCause) (w : Word) : (s.raise c w).stack = s.stack := rfl
@[simp] theorem raise_dt (c : HaltCause) (w : Word) : (s.raise c w).dt = s.dt := rfl
@[simp] theorem raise_st (c : HaltCause) (w : Word) : (s.raise c w).st = s.st := rfl
@[simp] theorem raise_key (c : HaltCause) (w : Word) : (s.raise c w).key = s.key := rfl
@[simp] theorem raise_fb (c : HaltCause) (w : Word) : (s.raise c w).fb = s.fb := rfl
@[simp] theorem raise_mem (c : HaltCause) (w : Word) : (s.raise c w).mem = s.mem := rfl
@[simp] theorem raise_haltCause (c : HaltCause) (w : Word) : (s.raise c w).haltCause = c := rfl
@[simp] theorem raise_haltPc (c : HaltCause) (w : Word) : (s.raise c w).haltPc = s.pc := rfl
@[simp] theorem raise_haltInfo (c : HaltCause) (w : Word) : (s.raise c w).haltInfo = w := rfl
@[simp] theorem raise_draws (c : HaltCause) (w : Word) : (s.raise c w).draws = s.draws := rfl
@[simp] theorem raise_drawCount (c : HaltCause) (w : Word) : (s.raise c w).drawCount = s.drawCount := rfl
@[simp] theorem raise_getV (c : HaltCause) (w : Word) (k : Nibble) : (s.raise c w).getV k = s.getV k := rfl
@[simp] theorem raise_readByte (c : HaltCause) (w : Word) (a : Nat) : (s.raise c w).readByte a = s.readByte a := rfl
@[simp] theorem raise_keyDown (c : HaltCause) (w : Word) (k : Nibble) : (s.raise c w).keyDown k = s.keyDown k := rfl

/-! `State.advance` -/

@[simp] theorem advance_cfg : (s.advance).cfg = s.cfg := rfl
@[simp] theorem advance_v : (s.advance).v = s.v := rfl
@[simp] theorem advance_i : (s.advance).i = s.i := rfl
@[simp] theorem advance_pc : (s.advance).pc = s.pc + 2 := rfl
@[simp] theorem advance_sp : (s.advance).sp = s.sp := rfl
@[simp] theorem advance_stack : (s.advance).stack = s.stack := rfl
@[simp] theorem advance_dt : (s.advance).dt = s.dt := rfl
@[simp] theorem advance_st : (s.advance).st = s.st := rfl
@[simp] theorem advance_key : (s.advance).key = s.key := rfl
@[simp] theorem advance_fb : (s.advance).fb = s.fb := rfl
@[simp] theorem advance_mem : (s.advance).mem = s.mem := rfl
@[simp] theorem advance_haltCause : (s.advance).haltCause = s.haltCause := rfl
@[simp] theorem advance_haltPc : (s.advance).haltPc = s.haltPc := rfl
@[simp] theorem advance_haltInfo : (s.advance).haltInfo = s.haltInfo := rfl
@[simp] theorem advance_draws : (s.advance).draws = s.draws := rfl
@[simp] theorem advance_drawCount : (s.advance).drawCount = s.drawCount := rfl
@[simp] theorem advance_getV (k : Nibble) : (s.advance).getV k = s.getV k := rfl
@[simp] theorem advance_readByte (a : Nat) : (s.advance).readByte a = s.readByte a := rfl
@[simp] theorem advance_keyDown (k : Nibble) : (s.advance).keyDown k = s.keyDown k := rfl

/-! `State.skipWhen` -/

@[simp] theorem skipWhen_cfg (t : Bool) : (s.skipWhen t).cfg = s.cfg := by cases t <;> rfl
@[simp] theorem skipWhen_v (t : Bool) : (s.skipWhen t).v = s.v := by cases t <;> rfl
@[simp] theorem skipWhen_i (t : Bool) : (s.skipWhen t).i = s.i := by cases t <;> rfl
@[simp] theorem skipWhen_pc (t : Bool) : (s.skipWhen t).pc = if t then s.pc + 4 else s.pc + 2 := by
  cases t
  · rfl
  · exact BitVec.add_assoc s.pc 2 2
@[simp] theorem skipWhen_sp (t : Bool) : (s.skipWhen t).sp = s.sp := by cases t <;> rfl
@[simp] theorem skipWhen_stack (t : Bool) : (s.skipWhen t).stack = s.stack := by cases t <;> rfl
@[simp] theorem skipWhen_dt (t : Bool) : (s.skipWhen t).dt = s.dt := by cases t <;> rfl
@[simp] theorem skipWhen_st (t : Bool) : (s.skipWhen t).st = s.st := by cases t <;> rfl
@[simp] theorem skipWhen_key (t : Bool) : (s.skipWhen t).key = s.key := by cases t <;> rfl
@[simp] theorem skipWhen_fb (t : Bool) : (s.skipWhen t).fb = s.fb := by cases t <;> rfl
@[simp] theorem skipWhen_mem (t : Bool) : (s.skipWhen t).mem = s.mem := by cases t <;> rfl
@[simp] theorem skipWhen_haltCause (t : Bool) : (s.skipWhen t).haltCause = s.haltCause := by cases t <;> rfl
@[simp] theorem skipWhen_haltPc (t : Bool) : (s.skipWhen t).haltPc = s.haltPc := by cases t <;> rfl
@[simp] theorem skipWhen_haltInfo (t : Bool) : (s.skipWhen t).haltInfo = s.haltInfo := by cases t <;> rfl
@[simp] theorem skipWhen_draws (t : Bool) : (s.skipWhen t).draws = s.draws := by cases t <;> rfl
@[simp] theorem skipWhen_drawCount (t : Bool) : (s.skipWhen t).drawCount = s.drawCount := by cases t <;> rfl
@[simp] theorem skipWhen_getV (t : Bool) (k : Nibble) : (s.skipWhen t).getV k = s.getV k := by cases t <;> rfl
@[simp] theorem skipWhen_readByte (t : Bool) (a : Nat) : (s.skipWhen t).readByte a = s.readByte a := by cases t <;> rfl
@[simp] theorem skipWhen_keyDown (t : Bool) (k : Nibble) : (s.skipWhen t).keyDown k = s.keyDown k := by cases t <;> rfl

/-! `State.writeFlagResult` -/

@[simp] theorem writeFlagResult_cfg (x : Nibble) (p : Byte × Byte) : (s.writeFlagResult x p).cfg = s.cfg := rfl
@[simp] theorem writeFlagResult_i (x : Nibble) (p : Byte × Byte) : (s.writeFlagResult x p).i = s.i := rfl
@[simp] theorem writeFlagResult_pc (x : Nibble) (p : Byte × Byte) : (s.writeFlagResult x p).pc = s.pc := rfl
@[simp] theorem writeFlagResult_sp (x : Nibble) (p : Byte × Byte) : (s.writeFlagResult x p).sp = s.sp := rfl
@[simp] theorem writeFlagResult_stack (x : Nibble) (p : Byte × Byte) : (s.writeFlagResult x p).stack = s.stack := rfl
@[simp] theorem writeFlagResult_dt (x : Nibble) (p : Byte × Byte) : (s.writeFlagResult x p).dt = s.dt := rfl
@[simp] theorem writeFlagResult_st (x : Nibble) (p : Byte × Byte) : (s.writeFlagResult x p).st = s.st := rfl
@[simp] theorem writeFlagResult_key (x : Nibble) (p : Byte × Byte) : (s.writeFlagResult x p).key = s.key := rfl
@[simp] theorem writeFlagResult_fb (x : Nibble) (p : Byte × Byte) : (s.writeFlagResult x p).fb = s.fb := rfl
@[simp] theorem writeFlagResult_mem (x : Nibble) (p : Byte × Byte) : (s.writeFlagResult x p).mem = s.mem := rfl
@[simp] theorem writeFlagResult_haltCause (x : Nibble) (p : Byte × Byte) : (s.writeFlagResult x p).haltCause = s.haltCause := rfl
@[simp] theorem writeFlagResult_haltPc (x : Nibble) (p : Byte × Byte) : (s.writeFlagResult x p).haltPc = s.haltPc := rfl
@[simp] theorem writeFlagResult_haltInfo (x : Nibble) (p : Byte × Byte) : (s.writeFlagResult x p).haltInfo = s.haltInfo := rfl
@[simp] theorem writeFlagResult_draws (x : Nibble) (p : Byte × Byte) : (s.writeFlagResult x p).draws = s.draws := rfl
@[simp] theorem writeFlagResult_drawCount (x : Nibble) (p : Byte × Byte) : (s.writeFlagResult x p).drawCount = s.drawCount := rfl
@[simp] theorem writeFlagResult_readByte (x : Nibble) (p : Byte × Byte) (a : Nat) : (s.writeFlagResult x p).readByte a = s.readByte a := rfl
@[simp] theorem writeFlagResult_keyDown (x : Nibble) (p : Byte × Byte) (k : Nibble) : (s.writeFlagResult x p).keyDown k = s.keyDown k := rfl

/-! `State.writeIndexFlag` -/

@[simp] theorem writeIndexFlag_cfg (n : Nat) : (s.writeIndexFlag n).cfg = s.cfg := by unfold State.writeIndexFlag; split <;> rfl
@[simp] theorem writeIndexFlag_i (n : Nat) : (s.writeIndexFlag n).i = s.i := by unfold State.writeIndexFlag; split <;> rfl
@[simp] theorem writeIndexFlag_pc (n : Nat) : (s.writeIndexFlag n).pc = s.pc := by unfold State.writeIndexFlag; split <;> rfl
@[simp] theorem writeIndexFlag_sp (n : Nat) : (s.writeIndexFlag n).sp = s.sp := by unfold State.writeIndexFlag; split <;> rfl
@[simp] theorem writeIndexFlag_stack (n : Nat) : (s.writeIndexFlag n).stack = s.stack := by unfold State.writeIndexFlag; split <;> rfl
@[simp] theorem writeIndexFlag_dt (n : Nat) : (s.writeIndexFlag n).dt = s.dt := by unfold State.writeIndexFlag; split <;> rfl
@[simp] theorem writeIndexFlag_st (n : Nat) : (s.writeIndexFlag n).st = s.st := by unfold State.writeIndexFlag; split <;> rfl
@[simp] theorem writeIndexFlag_key (n : Nat) : (s.writeIndexFlag n).key = s.key := by unfold State.writeIndexFlag; split <;> rfl
@[simp] theorem writeIndexFlag_fb (n : Nat) : (s.writeIndexFlag n).fb = s.fb := by unfold State.writeIndexFlag; split <;> rfl
@[simp] theorem writeIndexFlag_mem (n : Nat) : (s.writeIndexFlag n).mem = s.mem := by unfold State.writeIndexFlag; split <;> rfl
@[simp] theorem writeIndexFlag_haltCause (n : Nat) : (s.writeIndexFlag n).haltCause = s.haltCause := by unfold State.writeIndexFlag; split <;> rfl
@[simp] theorem writeIndexFlag_haltPc (n : Nat) : (s.writeIndexFlag n).haltPc = s.haltPc := by unfold State.writeIndexFlag; split <;> rfl
@[simp] theorem writeIndexFlag_haltInfo (n : Nat) : (s.writeIndexFlag n).haltInfo = s.haltInfo := by unfold State.writeIndexFlag; split <;> rfl
@[simp] theorem writeIndexFlag_draws (n : Nat) : (s.writeIndexFlag n).draws = s.draws := by unfold State.writeIndexFlag; split <;> rfl
@[simp] theorem writeIndexFlag_drawCount (n : Nat) : (s.writeIndexFlag n).drawCount = s.drawCount := by unfold State.writeIndexFlag; split <;> rfl
@[simp] theorem writeIndexFlag_readByte (n : Nat) (a : Nat) : (s.writeIndexFlag n).readByte a = s.readByte a := by unfold State.writeIndexFlag; split <;> rfl
@[simp] theorem writeIndexFlag_keyDown (n : Nat) (k : Nibble) : (s.writeIndexFlag n).keyDown k = s.keyDown k := by unfold State.writeIndexFlag; split <;> rfl

/-! `State.loadRegs` -/

@[simp] theorem loadRegs_cfg (x : Nibble) : (s.loadRegs x).cfg = s.cfg := rfl
@[simp] theorem loadRegs_i (x : Nibble) : (s.loadRegs x).i = s.i := rfl
@[simp] theorem loadRegs_pc (x : Nibble) : (s.loadRegs x).pc = s.pc := rfl
@[simp] theorem loadRegs_sp (x : Nibble) : (s.loadRegs x).sp = s.sp := rfl
@[simp] theorem loadRegs_stack (x : Nibble) : (s.loadRegs x).stack = s.stack := rfl
@[simp] theorem loadRegs_dt (x : Nibble) : (s.loadRegs x).dt = s.dt := rfl
@[simp] theorem loadRegs_st (x : Nibble) : (s.loadRegs x).st = s.st := rfl
@[simp] theorem loadRegs_key (x : Nibble) : (s.loadRegs x).key = s.key := rfl
@[simp] theorem loadRegs_fb (x : Nibble) : (s.loadRegs x).fb = s.fb := rfl
@[simp] theorem loadRegs_mem (x : Nibble) : (s.loadRegs x).mem = s.mem := rfl
@[simp] theorem loadRegs_haltCause (x : Nibble) : (s.loadRegs x).haltCause = s.haltCause := rfl
@[simp] theorem loadRegs_haltPc (x : Nibble) : (s.loadRegs x).haltPc = s.haltPc := rfl
@[simp] theorem loadRegs_haltInfo (x : Nibble) : (s.loadRegs x).haltInfo = s.haltInfo := rfl
@[simp] theorem loadRegs_draws (x : Nibble) : (s.loadRegs x).draws = s.draws := rfl
@[simp] theorem loadRegs_drawCount (x : Nibble) : (s.loadRegs x).drawCount = s.drawCount := rfl
@[simp] theorem loadRegs_readByte (x : Nibble) (a : Nat) : (s.loadRegs x).readByte a = s.readByte a := rfl
@[simp] theorem loadRegs_keyDown (x : Nibble) (k : Nibble) : (s.loadRegs x).keyDown k = s.keyDown k := rfl

/-! `State.postIncI` -/

@[simp] theorem postIncI_cfg (x : Nibble) : (s.postIncI x).cfg = s.cfg := by unfold State.postIncI; split <;> rfl
@[simp] theorem postIncI_v (x : Nibble) : (s.postIncI x).v = s.v := by unfold State.postIncI; split <;> rfl
@[simp] theorem postIncI_pc (x : Nibble) : (s.postIncI x).pc = s.pc := by unfold State.postIncI; split <;> rfl
@[simp] theorem postIncI_sp (x : Nibble) : (s.postIncI x).sp = s.sp := by unfold State.postIncI; split <;> rfl
@[simp] theorem postIncI_stack (x : Nibble) : (s.postIncI x).stack = s.stack := by unfold State.postIncI; split <;> rfl
@[simp] theorem postIncI_dt (x : Nibble) : (s.postIncI x).dt = s.dt := by unfold State.postIncI; split <;> rfl
@[simp] theorem postIncI_st (x : Nibble) : (s.postIncI x).st = s.st := by unfold State.postIncI; split <;> rfl
@[simp] theorem postIncI_key (x : Nibble) : (s.postIncI x).key = s.key := by unfold State.postIncI; split <;> rfl
@[simp] theorem postIncI_fb (x : Nibble) : (s.postIncI x).fb = s.fb := by unfold State.postIncI; split <;> rfl
@[simp] theorem postIncI_mem (x : Nibble) : (s.postIncI x).mem = s.mem := by unfold State.postIncI; split <;> rfl
@[simp] theorem postIncI_haltCause (x : Nibble) : (s.postIncI x).haltCause = s.haltCause := by unfold State.postIncI; split <;> rfl
@[simp] theorem postIncI_haltPc (x : Nibble) : (s.postIncI x).haltPc = s.haltPc := by unfold State.postIncI; split <;> rfl
@[simp] theorem postIncI_haltInfo (x : Nibble) : (s.postIncI x).haltInfo = s.haltInfo := by unfold State.postIncI; split <;> rfl
@[simp] theorem postIncI_draws (x : Nibble) : (s.postIncI x).draws = s.draws := by unfold State.postIncI; split <;> rfl
@[simp] theorem postIncI_drawCount (x : Nibble) : (s.postIncI x).drawCount = s.drawCount := by unfold State.postIncI; split <;> rfl
@[simp] theorem postIncI_getV (x : Nibble) (k : Nibble) : (s.postIncI x).getV k = s.getV k := by unfold State.postIncI; split <;> rfl
@[simp] theorem postIncI_readByte (x : Nibble) (a : Nat) : (s.postIncI x).readByte a = s.readByte a := by unfold State.postIncI; split <;> rfl
@[simp] theorem postIncI_keyDown (x : Nibble) (k : Nibble) : (s.postIncI x).keyDown k = s.keyDown k := by unfold State.postIncI; split <;> rfl

/-! `State.consumeDraw` -/

@[simp] theorem consumeDraw_cfg : (s.consumeDraw).cfg = s.cfg := by unfold State.consumeDraw; split <;> rfl
@[simp] theorem consumeDraw_v : (s.consumeDraw).v = s.v := by unfold State.consumeDraw; split <;> rfl
@[simp] theorem consumeDraw_i : (s.consumeDraw).i = s.i := by unfold State.consumeDraw; split <;> rfl
@[simp] theorem consumeDraw_pc : (s.consumeDraw).pc = s.pc := by unfold State.consumeDraw; split <;> rfl
@[simp] theorem consumeDraw_sp : (s.consumeDraw).sp = s.sp := by unfold State.consumeDraw; split <;> rfl
@[simp] theorem consumeDraw_stack : (s.consumeDraw).stack = s.stack := by unfold State.consumeDraw; split <;> rfl
@[simp] theorem consumeDraw_dt : (s.consumeDraw).dt = s.dt := by unfold State.consumeDraw; split <;> rfl
@[simp] theorem consumeDraw_st : (s.consumeDraw).st = s.st := by unfold State.consumeDraw; split <;> rfl
@[simp] theorem consumeDraw_key : (s.consumeDraw).key = s.key := by unfold State.consumeDraw; split <;> rfl
@[simp] theorem consumeDraw_fb : (s.consumeDraw).fb = s.fb := by unfold State.consumeDraw; split <;> rfl
@[simp] theorem consumeDraw_mem : (s.consumeDraw).mem = s.mem := by unfold State.consumeDraw; split <;> rfl
@[simp] theorem consumeDraw_haltCause : (s.consumeDraw).haltCause = s.haltCause := by unfold State.consumeDraw; split <;> rfl
@[simp] theorem consumeDraw_haltPc : (s.consumeDraw).haltPc = s.haltPc := by unfold State.consumeDraw; split <;> rfl
@[simp] theorem consumeDraw_haltInfo : (s.consumeDraw).haltInfo = s.haltInfo := by unfold State.consumeDraw; split <;> rfl
@[simp] theorem consumeDraw_getV (k : Nibble) : (s.consumeDraw).getV k = s.getV k := by unfold State.consumeDraw; split <;> rfl
@[simp] theorem consumeDraw_readByte (a : Nat) : (s.consumeDraw).readByte a = s.readByte a := by unfold State.consumeDraw; split <;> rfl
@[simp] theorem consumeDraw_keyDown (k : Nibble) : (s.consumeDraw).keyDown k = s.keyDown k := by unfold State.consumeDraw; split <;> rfl

end Sys2Proof.Machine
end

