-- ==== Sys2Proof/Laws/Ops.lean ====
section
/-!
SUPPORT. What each shared operation over registers, keys, stack and draws can do, said once.
-/
namespace Sys2Proof.Machine

theorem getV_setV (s : State) (x y : Nibble) (b : Byte) :
    (s.setV x b).getV y = if x = y then b else s.getV y := by
  simp [State.setV, State.getV, Vector.getElem_set, BitVec.toNat_inj]

@[simp] theorem getV_setV_self (s : State) (x : Nibble) (b : Byte) : (s.setV x b).getV x = b := by
  simp [getV_setV]

theorem getV_setV_ne (s : State) {x y : Nibble} (b : Byte) (h : x ≠ y) :
    (s.setV x b).getV y = s.getV y := by
  simp [getV_setV, h]

/-- R150: the destination holds the result, VF the flag unless it is the destination. -/
theorem getV_writeFlagResult (s : State) (x k : Nibble) (p : Byte × Byte) :
    (s.writeFlagResult x p).getV k = if k = x then p.2 else if k = vf then p.1 else s.getV k := by
  simp only [State.writeFlagResult, getV_setV, eq_comm (a := k)]

/-- R184: VF changes only under `ON`. -/
theorem getV_writeIndexFlag (s : State) (n : Nat) (k : Nibble) :
    (s.writeIndexFlag n).getV k =
      if s.cfg.indexCarry = .on ∧ k = vf then flagByte (decide (4095 < n)) else s.getV k := by
  unfold State.writeIndexFlag
  cases s.cfg.indexCarry <;> simp [getV_setV, eq_comm (a := vf)]

/-- R188: registers up to `x` are loaded, the others kept. -/
theorem getV_loadRegs (s : State) (x k : Nibble) :
    (s.loadRegs x).getV k =
      if k.toNat ≤ x.toNat then s.readByte (s.i.toNat + k.toNat) else s.getV k := by
  simp [State.loadRegs, State.getV]

/-- R190: `I` moves by `x + 1` under `X_PLUS_1` only. -/
theorem postIncI_i (s : State) (x : Nibble) :
    (s.postIncI x).i =
      if s.cfg.memInc = .xPlus1 then s.i + BitVec.ofNat 16 (x.toNat + 1) else s.i := by
  unfold State.postIncI
  split <;> simp_all

theorem keyDown_setKey (s : State) (j k : Nibble) (p : Bool) :
    (s.setKey j p).keyDown k = if j = k then p else s.keyDown k := by
  simp [State.setKey, State.keyDown, Vector.getElem_set, BitVec.toNat_inj]

/-- Pushing succeeds exactly where slot `SP` exists, and then writes that slot and `SP` only (R131). -/
theorem push_eq_some {s t : State} {w : Word} :
    s.push w = some t ↔
      s.sp < s.stack.length ∧ t = { s with stack := s.stack.set s.sp w, sp := s.sp + 1 } := by
  unfold State.push
  split <;> simp_all [eq_comm]

/-- Popping succeeds exactly where slot `SP - 1` exists, and then writes `PC` and `SP` only (R132). -/
theorem popPc_eq_some {s t : State} :
    s.popPc = some t ↔
      ∃ w, s.stack[s.sp - 1]? = some w ∧ t = { s with pc := w, sp := s.sp - 1 } := by
  unfold State.popPc
  cases s.stack[s.sp - 1]? <;> simp [eq_comm (b := t)]

/-- The range rule either lets the whole effect happen or raises before anything is written (R70). -/
theorem guardRange_cases {s t body : State} {k : Nat} (h : guardRange s k body = .next t) :
    (InRange s.i k ∧ t = body) ∨
      (¬ InRange s.i k ∧ t = s.raise .outOfBoundsAddress (firstBad s.i)) := by
  unfold guardRange at h
  split at h <;> simp_all [eq_comm]

theorem guardRange_in {s body : State} {k : Nat} (h : InRange s.i k) :
    guardRange s k body = .next body := if_pos h

theorem guardRange_out {s body : State} {k : Nat} (h : ¬ InRange s.i k) :
    guardRange s k body = .next (s.raise .outOfBoundsAddress (firstBad s.i)) := if_neg h

theorem nextDraw_cons {s : State} {r : Byte} {rs : List Byte} (h : s.draws = r :: rs) :
    s.nextDraw = r := by
  simp [State.nextDraw, h]

theorem firstBad_toNat (a : Word) : (firstBad a).toNat = max a.toNat 4096 := by
  unfold firstBad memSize
  split <;> simp <;> omega

theorem mem_keyOrder (k : Nibble) : k ∈ keyOrder := by
  revert k; decide

/-- No key is found exactly when none is down (R233). -/
theorem lowestKey_eq_none {s : State} : s.lowestKey = none ↔ ∀ k, s.keyDown k = false := by
  simp [State.lowestKey, List.find?_eq_none, mem_keyOrder]

end Sys2Proof.Machine
end

