-- ==== Sys2Proof/Laws/Display.lean ====
section
/-!
SUPPORT. The pixel of a toggled display and of one composited sprite bit; two displays with the same
pixels are equal.
-/
namespace Sys2Proof.Machine

theorem pixel_toggle (f : Framebuffer) (px qx : Fin 64) (py qy : Fin 32) :
    (Framebuffer.toggle f qx qy).pixel px py =
      if px = qx ∧ py = qy then !f.pixel px py else f.pixel px py := by
  simp only [Framebuffer.pixel, Framebuffer.toggle, Vector.get_eq_getElem, Vector.getElem_set, Fin.ext_iff,
    eq_comm (a := qy.val)]
  by_cases hy : py.val = qy.val
  · by_cases hx : px.val = qx.val
    · simp [hx, hy]
    · simp [hx, hy]
  · simp [hy]

theorem fb_ext {f g : Framebuffer} (h : ∀ px py, f.pixel px py = g.pixel px py) : f = g := by
  apply Vector.ext
  intro py hy
  apply BitVec.eq_of_getLsbD_eq
  intro px hx
  exact h ⟨px, hx⟩ ⟨py, hy⟩

/-- A display filled with zeros has no pixel set (R205, R38). -/
@[simp] theorem pixel_clear (px : Fin 64) (py : Fin 32) :
    Framebuffer.pixel (Vector.replicate 32 0#64) px py = false := by
  simp [Framebuffer.pixel, Vector.get_eq_getElem]

/-- One sprite bit inverts its target pixel, if it has one, and keeps every other (R202). -/
theorem pixel_drawBit (e : SpriteEdge) (bit : Bool) (x y : Nat) (acc : Framebuffer × Bool)
    (px : Fin 64) (py : Fin 32) :
    (drawBit e bit x y acc).1.pixel px py =
      if bit = true ∧ spriteTarget e x y = some (px, py) then !acc.1.pixel px py
      else acc.1.pixel px py := by
  unfold drawBit
  cases ht : spriteTarget e x y with
  | none => simp
  | some q =>
    obtain ⟨qx, qy⟩ := q
    cases bit
    · simp
    · simp [pixel_toggle, eq_comm (a := qx), eq_comm (a := qy)]

/-- One sprite bit collides when its target pixel is set (R202). -/
theorem collides_drawBit (e : SpriteEdge) (bit : Bool) (x y : Nat) (acc : Framebuffer × Bool) :
    (drawBit e bit x y acc).2 = true ↔
      acc.2 = true ∨ bit = true ∧ ∃ px py, spriteTarget e x y = some (px, py) ∧
        acc.1.pixel px py = true := by
  unfold drawBit
  cases ht : spriteTarget e x y with
  | none => simp
  | some q => cases bit <;> simp [Prod.ext_iff]

end Sys2Proof.Machine
end

