-- ==== Sys2Proof/Laws/Events.lean ====
section
/-!
SUPPORT. Sequences of events: how they compose, and that they stay within the reachable states;
the self-jump that ends a run.
-/
namespace Sys2Proof.Machine

@[simp] theorem applyEvents_nil (s : State) : applyEvents [] s = .next s := rfl

/-- A sequence answers a next state exactly when its first event and then the rest do. -/
theorem applyEvents_cons {e : Event} {es : List Event} {s u : State} :
    applyEvents (e :: es) s = .next u ↔ ∃ t, applyEvent e s = .next t ∧ applyEvents es t = .next u := by
  rw [applyEvents]
  cases applyEvent e s <;> simp

/-- Two sequences one after the other. -/
theorem applyEvents_append {es fs : List Event} {s u : State} :
    applyEvents (es ++ fs) s = .next u ↔
      ∃ t, applyEvents es s = .next t ∧ applyEvents fs t = .next u := by
  induction es generalizing s with
  | nil => simp
  | cons e es ih =>
    rw [List.cons_append, applyEvents_cons]
    simp only [applyEvents_cons, ih]
    exact ⟨fun ⟨t, h, v, h1, h2⟩ => ⟨v, ⟨t, h, h1⟩, h2⟩, fun ⟨v, ⟨t, h, h1⟩, h2⟩ => ⟨t, h, v, h1, h2⟩⟩

/-- What events bring about from a reachable state is reachable. -/
theorem reachable_applyEvents {es : List Event} {s t : State} (h : Reachable s)
    (ht : applyEvents es s = .next t) : Reachable t := by
  induction es generalizing s with
  | nil => exact Host.Outcome.next.inj ht ▸ h
  | cons e es ih =>
    obtain ⟨u, hu, ht⟩ := applyEvents_cons.1 ht
    exact ih (.event s u e h hu) ht

/-- The word R125 writes as `0x1000 OR a` is the encoding of the jump to `a`. -/
theorem decode_selfJump (a : Addr) : decode (0x1000 ||| zextAddr a) = some (.jp a) := by
  have h : 0x1000 ||| zextAddr a = encNNN 0x1 a := by
    rw [encNNN, BitVec.append_def]
    rfl
  rw [h]
  simp [decode]

/-- At a self-jump the next step fetches the jump to its own address (R125). -/
theorem fetch_atSelfJump {s : State} {a : Addr} (h : s.AtSelfJump a) : s.fetch = .run (.jp a) := by
  obtain ⟨h1, h2, h3, h4⟩ := h
  have hp : s.pc.toNat = a.toNat := by
    rw [h2, zextAddr, BitVec.toNat_setWidth]
    omega
  unfold State.fetch State.fetchWord
  rw [if_neg (fun hh => h1 hh), if_neg (by omega), hp, h4, decode_selfJump]

end Sys2Proof.Machine
end

