-- ==== Sys2Proof/Laws/Memory.lean ====
section
/-!
SUPPORT. The laws of memory: a read after a write, and the canonical form kept by every operation.
-/
namespace Sys2Proof.Machine
variable (c : Config)

theorem find_put (m : Memory) (a : Nat) (b : Byte) (x : Nat) :
    (m.put a b).find x = if x = a then some b else m.find x := by
  induction m with
  | nil => simp [Memory.put, Memory.find, eq_comm]
  | cons e m ih =>
    obtain ⟨k, d⟩ := e
    rcases lt_trichotomy a k with h | rfl | h
    · by_cases hx : x = a <;> simp [Memory.put, Memory.find, h, hx, eq_comm (a := a)]
    · by_cases hx : x = a <;> simp [Memory.put, Memory.find, hx, eq_comm (a := a)]
    · have h1 : ¬ a < k := by omega
      have h2 : a ≠ k := by omega
      by_cases hk : k = x
      · subst hk
        simp [Memory.put, Memory.find, h1, h2, Ne.symm h2]
      · simp [Memory.put, Memory.find, h1, h2, hk, ih]

theorem find_drop (m : Memory) (a x : Nat) :
    (m.drop a).find x = if x = a then none else m.find x := by
  induction m with
  | nil => simp [Memory.drop, Memory.find]
  | cons e m ih =>
    obtain ⟨k, d⟩ := e
    by_cases hk : k = a
    · subst hk
      by_cases hx : x = k <;> simp_all [Memory.drop, Memory.find, eq_comm (a := k)]
    · by_cases hx : k = x
      · subst hx
        simp [Memory.drop, Memory.find, hk]
      · simp [Memory.drop, Memory.find, hk, hx, ih]

/-- Read after write: an allocated byte reads back, every other byte is as it was (R71). -/
theorem read_write (m : Memory) (a : Nat) (b : Byte) (x : Nat) :
    (m.write c a b).read c x = if x = a ∧ a < memSize then b else m.read c x := by
  unfold Memory.write Memory.read
  split_ifs <;> simp_all [find_put, find_drop]

/-- Reading after a run of writes at ascending addresses (R67). -/
theorem read_writeList (bs : List Byte) (m : Memory) (a x : Nat) (h : a + bs.length ≤ memSize) :
    (m.writeList c a bs).read c x =
      if hx : a ≤ x ∧ x < a + bs.length then bs[x - a]'(by omega) else m.read c x := by
  induction bs generalizing m a with
  | nil => simp [Memory.writeList]
  | cons b bs ih =>
    simp only [List.length_cons] at h
    rw [Memory.writeList, ih _ _ (by omega), read_write]
    by_cases hx : x = a
    · subst hx
      simp [show x < memSize by omega]
    · by_cases hr : a + 1 ≤ x ∧ x < a + 1 + bs.length
      · have h1 : x - a = (x - (a + 1)) + 1 := by omega
        simp [hr, show a ≤ x ∧ x < a + (bs.length + 1) by omega, h1]
      · simp only [hr, hx, show ¬ (a ≤ x ∧ x < a + (bs.length + 1)) by omega, dite_false, false_and,
          if_false, List.length_cons]

theorem mem_put {m : Memory} {a : Nat} {b : Byte} {e : Host.Cell} (h : e ∈ m.put a b) :
    e = (a, b) ∨ e ∈ m := by
  induction m with
  | nil => simpa [Memory.put] using h
  | cons f m ih =>
    obtain ⟨k, d⟩ := f
    simp only [Memory.put] at h
    split_ifs at h <;> simp_all <;> tauto

theorem pairwise_put {m : Memory} (h : m.Pairwise fun e f => e.1 < f.1) (a : Nat) (b : Byte) :
    (m.put a b).Pairwise fun e f => e.1 < f.1 := by
  induction m with
  | nil => simp [Memory.put]
  | cons f m ih =>
    obtain ⟨k, d⟩ := f
    rw [List.pairwise_cons] at h
    simp only [Memory.put]
    split_ifs with h1 h2
    · exact List.pairwise_cons.2 ⟨fun e he => by
        rcases List.mem_cons.1 he with rfl | he
        · exact h1
        · exact h1.trans (h.1 e he), List.pairwise_cons.2 h⟩
    · subst h2
      exact List.pairwise_cons.2 ⟨h.1, h.2⟩
    · refine List.pairwise_cons.2 ⟨fun e he => ?_, ih h.2⟩
      rcases mem_put he with rfl | he
      · show k < a
        omega
      · exact h.1 e he

theorem drop_sublist (m : Memory) (a : Nat) : (m.drop a).Sublist m := by
  induction m with
  | nil => exact .slnil
  | cons f m ih =>
    obtain ⟨k, d⟩ := f
    simp only [Memory.drop]
    split_ifs
    · exact ih.cons _
    · exact ih.cons_cons _

variable {c}

theorem put_wf {m : Memory} (h : m.wf c) {a : Nat} {b : Byte} (ha : a < memSize)
    (hb : b ≠ initByte c a) : (m.put a b).wf c :=
  ⟨pairwise_put h.1 a b, fun e he => (mem_put he).elim (fun h0 => h0 ▸ ⟨ha, hb⟩) (h.2 e)⟩

theorem drop_wf {m : Memory} (h : m.wf c) (a : Nat) : (m.drop a).wf c :=
  ⟨h.1.sublist (drop_sublist m a), fun e he => h.2 e ((drop_sublist m a).subset he)⟩

/-- A write keeps the canonical form. -/
theorem write_wf {m : Memory} (h : m.wf c) (a : Nat) (b : Byte) : (m.write c a b).wf c := by
  unfold Memory.write
  split_ifs with ha hb
  · exact drop_wf h a
  · exact put_wf h ha hb
  · exact h

/-- A run of writes keeps the canonical form. -/
theorem writeList_wf (bs : List Byte) {m : Memory} (h : m.wf c) (a : Nat) :
    (m.writeList c a bs).wf c := by
  induction bs generalizing m a with
  | nil => exact h
  | cons b bs ih => exact ih (write_wf h a b) (a + 1)

/-- Memory after reset is canonical. -/
theorem resetWith_mem_wf (c : Config) : (State.resetWith c).mem.wf (State.resetWith c).cfg :=
  ⟨List.Pairwise.nil, by simp [State.resetWith]⟩

/-- The bytes an instruction stores read back, and every other byte reads as before. -/
theorem readByte_writeBytes (s : State) (a : Nat) (bs : List Byte) (x : Nat)
    (h : a + bs.length ≤ memSize) :
    (s.writeBytes a bs).readByte x =
      if hx : a ≤ x ∧ x < a + bs.length then bs[x - a]'(by omega) else s.readByte x :=
  read_writeList s.cfg bs s.mem a x h

theorem readBytes_length (s : State) (a n : Nat) : (s.readBytes a n).length = n := by
  induction n generalizing a with
  | zero => rfl
  | succ n ih => simp [State.readBytes, ih]

theorem getElem_readBytes (s : State) (a n k : Nat) (h : k < (s.readBytes a n).length) :
    (s.readBytes a n)[k] = s.readByte (a + k) := by
  induction n generalizing a k with
  | zero => simp [State.readBytes] at h
  | succ n ih =>
    cases k with
    | zero => rfl
    | succ k =>
      simp only [State.readBytes, List.getElem_cons_succ]
      rw [ih]
      congr 1
      omega

end Sys2Proof.Machine
end

