-- ==== Sys2Proof/Laws/Frame.lean ====
section
/-!
SUPPORT. The frame of each shared operation: what it leaves unchanged.
-/
namespace Sys2Proof.Machine
variable {m : MayChange} {s t : State}

/-- Frames compose with the ordinary end of an instruction, since `PC` is in no frame. -/
theorem Frame.advance (h : Frame m s t) : Frame m s t.advance :=
  ⟨h.v, h.i, h.sp, h.slots, h.dt, h.st, h.fb, h.draws, h.bytes, h.key, h.halt, h.cfg⟩

theorem frame_refl (m : MayChange) (s : State) : Frame m s s := by
  constructor <;> simp

theorem frame_setPc (m : MayChange) (s : State) (w : Word) : Frame m s (s.setPc w) := by
  constructor <;> simp

theorem frame_skipWhen (m : MayChange) (s : State) (b : Bool) : Frame m s (s.skipWhen b) := by
  constructor <;> simp

theorem frame_setV (s : State) (x : Nibble) (b : Byte) : Frame { v := onlyV x } s (s.setV x b) := by
  constructor
  case v =>
    intro k hk
    exact getV_setV_ne s b fun e => by simp [onlyV, e] at hk
  all_goals simp

theorem frame_writeFlagResult (s : State) (x : Nibble) (p : Byte × Byte) :
    Frame { v := onlyVAndVF x } s (s.writeFlagResult x p) := by
  constructor
  case v =>
    intro k hk
    simp [onlyVAndVF] at hk
    simp [getV_writeFlagResult, hk]
  all_goals simp

theorem frame_setI (s : State) (w : Word) : Frame { i := true } s (s.setI w) := by
  constructor <;> simp

theorem frame_setDt (s : State) (b : Byte) : Frame { dt := true } s (s.setDt b) := by
  constructor <;> simp

theorem frame_setSt (s : State) (b : Byte) : Frame { st := true } s (s.setSt b) := by
  constructor <;> simp

theorem frame_setFb (s : State) (f : Framebuffer) : Frame { fb := true } s (s.setFb f) := by
  constructor <;> simp

/-- Storing in range changes the stored bytes only. -/
theorem frame_writeBytes (s : State) (a : Nat) (bs : List Byte) (h : a + bs.length ≤ memSize) :
    Frame { bytes := bytesAt a bs.length } s (s.writeBytes a bs) := by
  constructor
  case bytes =>
    intro b hb
    have hb' : ¬ (a ≤ b ∧ b < a + bs.length) := by simpa [bytesAt] using hb
    rw [readByte_writeBytes s a bs b h, dif_neg hb']
  all_goals simp

end Sys2Proof.Machine
end

