-- ==== Sys2Proof/Laws/PerInstr.lean ====
section
/-!
SUPPORT. For every instruction: its encoding matches its own row of the opcode map (R96).
-/
namespace Sys2Proof.Laws.EncodesRow

/-- The opcode map has a row of the instruction's mnemonic that the instruction's encoding matches. -/
def Statement (i : Instr) : Prop :=
  ∃ r ∈ opcodeTable, r.mnemonic = i.mnemonic ∧ encode i &&& r.mask = r.bits

theorem cls : Statement (.cls) :=
  ⟨⟨"CLS", 0x00E0, 0xFFFF⟩, by decide, rfl, rfl⟩

theorem ret : Statement (.ret) :=
  ⟨⟨"RET", 0x00EE, 0xFFFF⟩, by decide, rfl, rfl⟩

theorem jp (nnn : Addr) : Statement (.jp nnn) :=
  ⟨⟨"JP_nnn", 0x1000, 0xF000⟩, by decide, rfl, encNNN_mask _ _⟩

theorem call (nnn : Addr) : Statement (.call nnn) :=
  ⟨⟨"CALL_nnn", 0x2000, 0xF000⟩, by decide, rfl, encNNN_mask _ _⟩

theorem seImm (x : Nibble) (nn : Byte) : Statement (.seImm x nn) :=
  ⟨⟨"SE_Vx__nn", 0x3000, 0xF000⟩, by decide, rfl, encXNN_mask _ _ _⟩

theorem sneImm (x : Nibble) (nn : Byte) : Statement (.sneImm x nn) :=
  ⟨⟨"SNE_Vx__nn", 0x4000, 0xF000⟩, by decide, rfl, encXNN_mask _ _ _⟩

theorem seReg (x y : Nibble) : Statement (.seReg x y) :=
  ⟨⟨"SE_Vx__Vy", 0x5000, 0xF00F⟩, by decide, rfl, encXYN_maskK _ _ _ _⟩

theorem sneReg (x y : Nibble) : Statement (.sneReg x y) :=
  ⟨⟨"SNE_Vx__Vy", 0x9000, 0xF00F⟩, by decide, rfl, encXYN_maskK _ _ _ _⟩

theorem ldImm (x : Nibble) (nn : Byte) : Statement (.ldImm x nn) :=
  ⟨⟨"LD_Vx__nn", 0x6000, 0xF000⟩, by decide, rfl, encXNN_mask _ _ _⟩

theorem addImm (x : Nibble) (nn : Byte) : Statement (.addImm x nn) :=
  ⟨⟨"ADD_Vx__nn", 0x7000, 0xF000⟩, by decide, rfl, encXNN_mask _ _ _⟩

theorem ldReg (x y : Nibble) : Statement (.ldReg x y) :=
  ⟨⟨"LD_Vx__Vy", 0x8000, 0xF00F⟩, by decide, rfl, encXYN_maskK _ _ _ _⟩

theorem orReg (x y : Nibble) : Statement (.orReg x y) :=
  ⟨⟨"OR_Vx__Vy", 0x8001, 0xF00F⟩, by decide, rfl, encXYN_maskK _ _ _ _⟩

theorem andReg (x y : Nibble) : Statement (.andReg x y) :=
  ⟨⟨"AND_Vx__Vy", 0x8002, 0xF00F⟩, by decide, rfl, encXYN_maskK _ _ _ _⟩

theorem xorReg (x y : Nibble) : Statement (.xorReg x y) :=
  ⟨⟨"XOR_Vx__Vy", 0x8003, 0xF00F⟩, by decide, rfl, encXYN_maskK _ _ _ _⟩

theorem addReg (x y : Nibble) : Statement (.addReg x y) :=
  ⟨⟨"ADD_Vx__Vy", 0x8004, 0xF00F⟩, by decide, rfl, encXYN_maskK _ _ _ _⟩

theorem sub (x y : Nibble) : Statement (.sub x y) :=
  ⟨⟨"SUB_Vx__Vy", 0x8005, 0xF00F⟩, by decide, rfl, encXYN_maskK _ _ _ _⟩

theorem shr (x y : Nibble) : Statement (.shr x y) :=
  ⟨⟨"SHR_Vx__Vy", 0x8006, 0xF00F⟩, by decide, rfl, encXYN_maskK _ _ _ _⟩

theorem subn (x y : Nibble) : Statement (.subn x y) :=
  ⟨⟨"SUBN_Vx__Vy", 0x8007, 0xF00F⟩, by decide, rfl, encXYN_maskK _ _ _ _⟩

theorem shl (x y : Nibble) : Statement (.shl x y) :=
  ⟨⟨"SHL_Vx__Vy", 0x800E, 0xF00F⟩, by decide, rfl, encXYN_maskK _ _ _ _⟩

theorem ldI (nnn : Addr) : Statement (.ldI nnn) :=
  ⟨⟨"LD_I__nnn", 0xA000, 0xF000⟩, by decide, rfl, encNNN_mask _ _⟩

theorem jpV0 (nnn : Addr) : Statement (.jpV0 nnn) :=
  ⟨⟨"JP_V0__nnn", 0xB000, 0xF000⟩, by decide, rfl, encNNN_mask _ _⟩

theorem rnd (x : Nibble) (nn : Byte) : Statement (.rnd x nn) :=
  ⟨⟨"RND_Vx__nn", 0xC000, 0xF000⟩, by decide, rfl, encXNN_mask _ _ _⟩

theorem drw (x y n : Nibble) : Statement (.drw x y n) :=
  ⟨⟨"DRW_Vx__Vy__n", 0xD000, 0xF000⟩, by decide, rfl, encXYN_mask _ _ _ _⟩

theorem skp (x : Nibble) : Statement (.skp x) :=
  ⟨⟨"SKP_Vx", 0xE09E, 0xF0FF⟩, by decide, rfl, encXNN_maskKK _ _ _⟩

theorem sknp (x : Nibble) : Statement (.sknp x) :=
  ⟨⟨"SKNP_Vx", 0xE0A1, 0xF0FF⟩, by decide, rfl, encXNN_maskKK _ _ _⟩

theorem ldVxDt (x : Nibble) : Statement (.ldVxDt x) :=
  ⟨⟨"LD_Vx__DT", 0xF007, 0xF0FF⟩, by decide, rfl, encXNN_maskKK _ _ _⟩

theorem ldDtVx (x : Nibble) : Statement (.ldDtVx x) :=
  ⟨⟨"LD_DT__Vx", 0xF015, 0xF0FF⟩, by decide, rfl, encXNN_maskKK _ _ _⟩

theorem ldStVx (x : Nibble) : Statement (.ldStVx x) :=
  ⟨⟨"LD_ST__Vx", 0xF018, 0xF0FF⟩, by decide, rfl, encXNN_maskKK _ _ _⟩

theorem addI (x : Nibble) : Statement (.addI x) :=
  ⟨⟨"ADD_I__Vx", 0xF01E, 0xF0FF⟩, by decide, rfl, encXNN_maskKK _ _ _⟩

theorem ldVxK (x : Nibble) : Statement (.ldVxK x) :=
  ⟨⟨"LD_Vx__K", 0xF00A, 0xF0FF⟩, by decide, rfl, encXNN_maskKK _ _ _⟩

theorem ldF (x : Nibble) : Statement (.ldF x) :=
  ⟨⟨"LD_F__Vx", 0xF029, 0xF0FF⟩, by decide, rfl, encXNN_maskKK _ _ _⟩

theorem ldB (x : Nibble) : Statement (.ldB x) :=
  ⟨⟨"LD_B__Vx", 0xF033, 0xF0FF⟩, by decide, rfl, encXNN_maskKK _ _ _⟩

theorem stRegs (x : Nibble) : Statement (.stRegs x) :=
  ⟨⟨"LD__I___Vx", 0xF055, 0xF0FF⟩, by decide, rfl, encXNN_maskKK _ _ _⟩

theorem ldRegs (x : Nibble) : Statement (.ldRegs x) :=
  ⟨⟨"LD_Vx___I", 0xF065, 0xF0FF⟩, by decide, rfl, encXNN_maskKK _ _ _⟩

end Sys2Proof.Laws.EncodesRow
end

