-- ==== Sys2Proof/Laws/Step.lean ====
section
/-!
SUPPORT. What fetch and step can do, said once: halted, a fetch out of range, an unknown word, or the
execution of the decoded instruction.
-/
namespace Sys2Proof.Machine

/-- The three ends fetch can have before an instruction runs, and the run itself (R120, R122). -/
theorem fetch_cases (s : State) :
    (s.haltCause ≠ .running ∧ s.fetch = .done s) ∨
    (s.haltCause = .running ∧ 4094 < s.pc.toNat ∧
      s.fetch = .done (s.raise .outOfBoundsAddress (firstBad s.pc))) ∨
    (s.haltCause = .running ∧ s.pc.toNat ≤ 4094 ∧ decode s.fetchWord = none ∧
      s.fetch = .done (s.raise .unknownOpcode s.fetchWord)) ∨
    (∃ i, s.haltCause = .running ∧ s.pc.toNat ≤ 4094 ∧ decode s.fetchWord = some i ∧
      s.fetch = .run i) := by
  unfold State.fetch
  by_cases hh : s.haltCause = .running
  · by_cases hp : 4094 < s.pc.toNat
    · simp [hh, hp]
    · cases hd : decode s.fetchWord <;> simp [hh, hp] <;> omega
  · simp [hh]

/-- What a step can do, from its answer (R120): halted and unchanged, a fatal condition at fetch or
decode, or the instruction's meaning. -/
theorem step_cases {s t : State} (h : step s = .next t) :
    (s.haltCause ≠ .running ∧ t = s) ∨
    (s.haltCause = .running ∧ 4094 < s.pc.toNat ∧
      t = s.raise .outOfBoundsAddress (firstBad s.pc)) ∨
    (s.haltCause = .running ∧ s.pc.toNat ≤ 4094 ∧ decode s.fetchWord = none ∧
      t = s.raise .unknownOpcode s.fetchWord) ∨
    (∃ i, s.haltCause = .running ∧ s.pc.toNat ≤ 4094 ∧ decode s.fetchWord = some i ∧
      exec i s = .next t) := by
  unfold step at h
  rcases fetch_cases s with ⟨h1, h2⟩ | ⟨h1, h2, h3⟩ | ⟨h1, h2, h3, h4⟩ | ⟨i, h1, h2, h3, h4⟩
  · rw [h2] at h
    exact .inl ⟨h1, (Host.Outcome.next.inj h).symm⟩
  · rw [h3] at h
    exact .inr (.inl ⟨h1, h2, (Host.Outcome.next.inj h).symm⟩)
  · rw [h4] at h
    exact .inr (.inr (.inl ⟨h1, h2, h3, (Host.Outcome.next.inj h).symm⟩))
  · rw [h4] at h
    exact .inr (.inr (.inr ⟨i, h1, h2, h3, h⟩))

/-- A call raises, pushes and jumps, or names a slot that does not exist (R131). -/
theorem execCall_cases {nnn : Addr} {s t : State} (h : execCall nnn s = .next t) :
    (s.sp = s.cfg.stackCapacity ∧ t = s.raise .stackOverflow 0) ∨
    (s.sp ≠ s.cfg.stackCapacity ∧ s.sp < s.stack.length ∧
      t = { s with stack := s.stack.set s.sp s.npc, sp := s.sp + 1, pc := zextAddr nnn }) := by
  unfold execCall at h
  split at h
  · exact .inl ⟨‹_›, (Host.Outcome.next.inj h).symm⟩
  · split at h
    · obtain ⟨h1, rfl⟩ := push_eq_some.1 ‹_›
      exact .inr ⟨‹_›, h1, (Host.Outcome.next.inj h).symm⟩
    · cases h

/-- A return raises, pops, or names a slot that does not exist (R132). -/
theorem execRet_cases {s t : State} (h : execRet s = .next t) :
    (s.sp = 0 ∧ t = s.raise .stackUnderflow 0) ∨
    (s.sp ≠ 0 ∧ ∃ w, s.stack[s.sp - 1]? = some w ∧ t = { s with pc := w, sp := s.sp - 1 }) := by
  unfold execRet at h
  split at h
  · exact .inl ⟨‹_›, (Host.Outcome.next.inj h).symm⟩
  · split at h
    · obtain ⟨w, h1, rfl⟩ := popPc_eq_some.1 ‹_›
      exact .inr ⟨‹_›, w, h1, (Host.Outcome.next.inj h).symm⟩
    · cases h

/-- A key wait either changes nothing or loads the lowest key (R233). -/
theorem execLdVxK_cases {x : Nibble} {s t : State} (h : execLdVxK x s = .next t) :
    (s.lowestKey = none ∧ t = s) ∨
    (∃ k, s.lowestKey = some k ∧ t = (s.setV x (k.setWidth 8)).advance) := by
  unfold execLdVxK at h
  split at h
  · exact .inl ⟨‹_›, (Host.Outcome.next.inj h).symm⟩
  · exact .inr ⟨_, ‹_›, (Host.Outcome.next.inj h).symm⟩

end Sys2Proof.Machine
end

