-- ==== Sys2Proof/Tests/Slice0.lean ====
section
/-!
SUPPORT. Tests. Every expected value is the spec's: a vector of 95_test_vectors.md (named T-..), a worked
example, or a word written out bit by bit from R91 and R96.
-/
namespace Sys2Proof.Tests
open Sys2Proof.Machine

/-- What a view of the next state shows; none where there is no next state. -/
def seen {α : Type} (f : State → α) : Result → Option α
  | .next t => some (f t)
  | .fault _ => none
  | .refused _ => none

/-- The launch state of the vectors, with one instruction word at 0x200 (or at the state's `PC`). -/
def ran {α : Type} (f : State → α) (s : State) (w : Nat) : Option α := seen f (step (s.withFetchWord 16 w))

/-- The reset state of the reference profile. -/
def base : State := State.reset

/-- The same machine with another value of one parameter. -/
def withCfg (f : Config → Config) : State := State.resetWith (f referenceConfig)

/-- Halt cause code, `HALT_PC`, `HALT_INFO` and `PC`. -/
def haltView (t : State) : BitVec 3 × Word × Word × Word := (t.haltCause.code, t.haltPc, t.haltInfo, t.pc)

/-! Well-formedness: an ill-formed word for each class of R99, and ill-formed parameters of R7. -/

theorem test_illFormed_class0 : wordWellFormed 0x0000 = false ∧ wordWellFormed 0x01E0 = false := by decide
theorem test_illFormed_5xyn : wordWellFormed 0x5121 = false := by decide
theorem test_illFormed_9xyn : wordWellFormed 0x9122 = false := by decide
theorem test_illFormed_8xyn : wordWellFormed 0x8128 = false ∧ wordWellFormed 0x812F = false := by decide
theorem test_illFormed_Exkk : wordWellFormed 0xE19F = false := by decide
theorem test_illFormed_Fxkk : wordWellFormed 0xF175 = false := by decide
theorem test_wellFormed_words : wordWellFormed 0x00E0 = true ∧ wordWellFormed 0xF265 = true := by decide
theorem test_illFormed_capacity : ¬ Config.wf { referenceConfig with stackCapacity := 11 } := by decide
theorem test_illFormed_fontBase : ¬ Config.wf { referenceConfig with fontBase := 433 } := by decide
theorem test_referenceConfig_wf : referenceConfig.wf := by decide

/-! Decoding: one word for every constructor, its nibbles written from R91 and R96. -/

theorem test_decode_control :
    decode 0x00E0 = some .cls ∧ decode 0x00EE = some .ret ∧ decode 0x1204 = some (.jp 0x204) ∧
    decode 0x2208 = some (.call 0x208) ∧ decode 0xB300 = some (.jpV0 0x300) ∧
    decode 0x3A22 = some (.seImm 0xA 0x22) ∧ decode 0x4311 = some (.sneImm 0x3 0x11) ∧
    decode 0x5120 = some (.seReg 0x1 0x2) ∧ decode 0x9120 = some (.sneReg 0x1 0x2) := by decide

theorem test_decode_alu :
    decode 0x6A05 = some (.ldImm 0xA 0x05) ∧ decode 0x7A03 = some (.addImm 0xA 0x03) ∧
    decode 0x8120 = some (.ldReg 0x1 0x2) ∧ decode 0x8121 = some (.orReg 0x1 0x2) ∧
    decode 0x8122 = some (.andReg 0x1 0x2) ∧ decode 0x8123 = some (.xorReg 0x1 0x2) ∧
    decode 0x8124 = some (.addReg 0x1 0x2) ∧ decode 0x8125 = some (.sub 0x1 0x2) ∧
    decode 0x8126 = some (.shr 0x1 0x2) ∧ decode 0x8127 = some (.subn 0x1 0x2) ∧
    decode 0x812E = some (.shl 0x1 0x2) ∧ decode 0xC10F = some (.rnd 0x1 0x0F) := by decide

theorem test_decode_memory :
    decode 0xA300 = some (.ldI 0x300) ∧ decode 0xF21E = some (.addI 0x2) ∧
    decode 0xFA29 = some (.ldF 0xA) ∧ decode 0xF033 = some (.ldB 0x0) ∧
    decode 0xF255 = some (.stRegs 0x2) ∧ decode 0xF265 = some (.ldRegs 0x2) := by decide

theorem test_decode_devices :
    decode 0xD125 = some (.drw 0x1 0x2 0x5) ∧ decode 0xE49E = some (.skp 0x4) ∧
    decode 0xE4A1 = some (.sknp 0x4) ∧ decode 0xF307 = some (.ldVxDt 0x3) ∧
    decode 0xF315 = some (.ldDtVx 0x3) ∧ decode 0xF518 = some (.ldStVx 0x5) ∧
    decode 0xF30A = some (.ldVxK 0x3) := by decide

/-- R105's worked examples of encoding. -/
theorem test_encode_examples :
    encode (.ldImm 0xA 0x05) = 0x6A05 ∧ encode (.addImm 0xA 0x03) = 0x7A03 ∧
    encode (.drw 0x1 0x2 0x5) = 0xD125 ∧ encode (.ldRegs 0x2) = 0xF265 ∧
    encode (.call 0x208) = 0x2208 := by decide

/-- The illegal words of T-X1 to T-X14. -/
theorem test_decode_unknown :
    [0x0000, 0x0123, 0x00E1, 0x00FF, 0x01E0, 0x5121, 0x9122].map decode = List.replicate 7 none ∧
    [0x8128, 0x812F, 0xE000, 0xE19F, 0xF000, 0xF175, 0xF075].map decode = List.replicate 7 none := by
  decide

theorem test_decodeBytes :
    decodeBytes [0x6A, 0x05, 0x7A] = .instr (.ldImm 0xA 0x05) [0x7A] ∧
    decodeBytes [0x6A] = .rejected .truncated ∧
    decodeBytes [0x51, 0x21] = .rejected (.unknownOpcode 0x5121) := by decide

theorem test_decodeTableWord : decodeTableWord 16 0xD125 = some (.drw 0x1 0x2 0x5) := by decide

/-! Control flow. -/

/-- T-C1 -/
theorem test_jp : ran (·.pc) base 0x1ABC = some 0xABC := by decide
/-- T-C4 -/
theorem test_call : ran (fun t => (t.sp, t.stack[0]?, t.pc)) base 0x2300 = some (1, some 0x202, 0x300) := by
  decide
/-- T-C5 -/
theorem test_call_full :
    ran (fun t => (haltView t, t.sp)) { base with sp := 12 } 0x2300 = some ((2, 0x200, 0, 0x200), 12) := by
  decide
/-- T-C9: only the top entry is popped, an odd return address is legal. -/
theorem test_ret :
    ran (fun t => (t.sp, t.pc, t.stack[1]?))
      { base with sp := 2, pc := 0x300, stack := [0x204, 0xABD] ++ List.replicate 10 0 } 0x00EE =
    some (1, 0xABD, some 0xABD) := by decide
/-- T-C8 -/
theorem test_ret_empty : ran haltView base 0x00EE = some (3, 0x200, 0, 0x200) := by decide
/-- T-C11: the sum is not reduced. -/
theorem test_jpV0 : ran (·.pc) (base.setV 0 0xFF) 0xBFFF = some 0x10FE := by decide
/-- T-C12: the fetch after T-C11. -/
theorem test_fetch_outOfRange :
    seen haltView (step { base with pc := 0x10FE }) = some (4, 0x10FE, 0x10FE, 0x10FE) := by decide
/-- T-C27: a fetch at 4095 needs byte 4096. -/
theorem test_fetch_4095 : seen haltView (step { base with pc := 0xFFF }) = some (4, 0xFFF, 0x1000, 0xFFF) := by
  decide
/-- T-C13, T-C14 -/
theorem test_seImm :
    ran (·.pc) (base.setV 1 0x22) 0x3122 = some 0x204 ∧ ran (·.pc) (base.setV 1 0x22) 0x3123 = some 0x202 := by
  decide
/-- T-C15, T-C16 -/
theorem test_sneImm :
    ran (·.pc) (base.setV 1 0x22) 0x4122 = some 0x202 ∧ ran (·.pc) (base.setV 1 0x22) 0x4123 = some 0x204 := by
  decide
/-- T-C17, T-C18 -/
theorem test_seReg :
    ran (·.pc) ((base.setV 1 7).setV 2 7) 0x5120 = some 0x204 ∧
    ran (·.pc) ((base.setV 1 7).setV 2 8) 0x5120 = some 0x202 := by decide
/-- T-C20, T-C21 -/
theorem test_sneReg :
    ran (·.pc) ((base.setV 1 7).setV 2 8) 0x9120 = some 0x204 ∧
    ran (·.pc) ((base.setV 1 7).setV 2 7) 0x9120 = some 0x202 := by decide
/-- T-C25: a skip at 4094 leaves PC = 4098. -/
theorem test_skip_top : ran (·.pc) { base with pc := 0xFFE } 0x3000 = some 0x1002 := by decide

/-! Register and ALU instructions. -/

/-- T-A1 -/
theorem test_ldImm : ran (fun t => (t.getV 0xA, t.pc)) base 0x6AFF = some (0xFF, 0x202) := by decide
/-- T-A3: wraps, VF untouched. -/
theorem test_addImm :
    ran (fun t => (t.getV 0xA, t.getV 0xF)) ((base.setV 0xA 0xFF).setV 0xF 0x55) 0x7A01 = some (0, 0x55) := by
  decide
/-- T-A7 -/
theorem test_ldReg : ran (·.getV 1) ((base.setV 1 0x11).setV 2 0x22) 0x8120 = some 0x22 := by decide

/-- The operands of T-A8 to T-A10. -/
def logicBase : State := ((base.setV 1 0xF0).setV 2 0x3C).setV 0xF 0x55

/-- T-A8 -/
theorem test_orReg : ran (fun t => (t.getV 1, t.getV 0xF)) logicBase 0x8121 = some (0xFC, 0x55) := by decide
/-- T-A9 -/
theorem test_andReg : ran (fun t => (t.getV 1, t.getV 0xF)) logicBase 0x8122 = some (0x30, 0x55) := by decide
/-- T-A10 -/
theorem test_xorReg : ran (fun t => (t.getV 1, t.getV 0xF)) logicBase 0x8123 = some (0xCC, 0x55) := by decide

/-- `V1`, `V2` and `VF` after a word, from given `V1`, `V2` and `VF` in the configuration `f`. -/
def alu (f : Config → Config) (a b flag : Byte) (w : Nat) : Option (Byte × Byte × Byte) :=
  ran (fun t => (t.getV 1, t.getV 2, t.getV 0xF)) ((((withCfg f).setV 1 a).setV 2 b).setV 0xF flag) w

/-- T-A12, T-A15 -/
theorem test_addReg :
    alu id 0xC8 0x64 0 0x8124 = some (0x2C, 0x64, 1) ∧ alu id 0xFF 0 1 0x8124 = some (0xFF, 0, 0) := by decide
/-- T-A17: with x = F the result remains and the carry is lost; T-A18: with y = F the old VF is added. -/
theorem test_addReg_vf :
    alu id 0x90 0 0x80 0x8F14 = some (0x90, 0, 0x10) ∧ alu id 0xFF 0 0x01 0x81F4 = some (0, 0, 1) := by decide
/-- T-A19, T-A20 -/
theorem test_sub : alu id 5 7 0 0x8125 = some (0xFE, 7, 0) ∧ alu id 7 7 0 0x8125 = some (0, 7, 1) := by decide
/-- T-A22, T-A23 -/
theorem test_sub_vf :
    alu id 0 7 5 0x8F25 = some (0, 7, 0xFE) ∧ alu id 5 0 7 0x81F5 = some (0xFE, 0, 0) := by decide
/-- T-A24, T-A25 -/
theorem test_shr :
    alu id 5 8 0 0x8126 = some (2, 8, 1) ∧
    alu (fun c => { c with shiftSrc := .vy }) 5 8 0 0x8126 = some (4, 8, 0) := by decide
/-- T-A28, T-A29 -/
theorem test_shr_vf :
    alu id 8 0 3 0x8F16 = some (8, 0, 1) ∧
    alu (fun c => { c with shiftSrc := .vy }) 8 0 3 0x8F16 = some (8, 0, 4) := by decide
/-- T-A30, T-A31 -/
theorem test_subn : alu id 5 7 0 0x8127 = some (2, 7, 1) ∧ alu id 7 5 0 0x8127 = some (0xFE, 5, 0) := by decide
/-- T-A33, T-A34 -/
theorem test_shl :
    alu id 0x81 0x40 0 0x812E = some (2, 0x40, 1) ∧
    alu (fun c => { c with shiftSrc := .vy }) 0x81 0x40 0 0x812E = some (0x80, 0x40, 0) := by decide
/-- T-A36 -/
theorem test_shl_vf : alu id 0 0 0x81 0x8F1E = some (0, 0, 2) := by decide
/-- T-A37, through the event step(r) -/
theorem test_rnd :
    seen (fun t => (t.getV 3, t.pc)) (stepEvent 0xA7 (base.withFetchWord 16 0xC30F)) = some (0x07, 0x202) := by
  decide

/-! Index and memory instructions. -/

/-- T-M2 -/
theorem test_ldI : ran (·.i) (base.setI 0x123) 0xAFFF = some 0xFFF := by decide
/-- T-M7 (wrap), T-M4 (OFF) -/
theorem test_addI :
    ran (·.i) ((base.setI 0xFFFF).setV 2 1) 0xF21E = some 0 ∧
    ran (fun t => (t.i, t.getV 0xF)) (((base.setI 0xFFF).setV 2 1).setV 0xF 0x55) 0xF21E = some (0x1000, 0x55) := by
  decide
/-- T-M8 and T-M6 (ON) -/
theorem test_addI_carry :
    ran (fun t => (t.i, t.getV 0xF))
      (((withCfg fun c => { c with indexCarry := .on }).setI 0xFFE).setV 0xF 2) 0xFF1E = some (0x1000, 1) ∧
    ran (fun t => (t.i, t.getV 0xF))
      ((((withCfg fun c => { c with indexCarry := .on }).setI 0xFF0).setV 2 0xF).setV 0xF 0x55) 0xF21E =
      some (0xFFF, 0) := by decide
/-- T-M11 and T-M10 -/
theorem test_ldF :
    ran (·.i) (base.setV 3 0x1A) 0xF329 = some 0x32 ∧
    ran (·.i) ((withCfg fun c => { c with fontBase := 0x50 }).setV 3 0x0A) 0xF329 = some 0x82 := by decide
/-- T-M19: 123 at the last legal address. -/
theorem test_ldB :
    ran (fun t => t.readBytes 0xFFC 4) ((base.setV 0 0x7B).setI 0xFFD) 0xF033 = some [0, 1, 2, 3] := by decide
/-- T-M20: one address further, nothing is written. -/
theorem test_ldB_out :
    ran (fun t => (haltView t, t.readBytes 0xFFE 2)) ((base.setV 0 0x7B).setI 0xFFE) 0xF033 =
    some ((4, 0x200, 0x1000, 0x200), [0, 0]) := by decide
/-- T-M22, T-M23 -/
theorem test_stRegs :
    ran (fun t => (t.readBytes 0x400 4, t.i))
      ((((base.setV 0 0x11).setV 1 0x22).setV 2 0x33).setI 0x400) 0xF255 = some ([0x11, 0x22, 0x33, 0], 0x400) ∧
    ran (·.i) ((withCfg fun c => { c with memInc := .xPlus1 }).setI 0x400) 0xF255 = some 0x403 := by decide
/-- T-M26: nothing is written, not even the bytes in range. -/
theorem test_stRegs_out :
    ran (fun t => (haltView t, t.readBytes 0xFFE 2)) ((base.setV 0 0x11).setI 0xFFE) 0xF255 =
    some ((4, 0x200, 0x1000, 0x200), [0, 0]) := by decide
/-- T-M27 -/
theorem test_ldRegs :
    ran (fun t => (t.getV 0, t.getV 2, t.getV 3))
      (((base.setI 0x400).writeBytes 0x400 [0xAA, 0xBB, 0xCC, 0xDD]).setV 3 0x77) 0xF265 =
    some (0xAA, 0xCC, 0x77) := by decide
/-- T-M29: 16 bytes ending at 4095, VF last; T-M30 -/
theorem test_ldRegs_top :
    ran (fun t => (t.getV 0, t.getV 0xF)) ((base.setI 0xFF0).writeBytes 0xFF0 [1, 2]) 0xFF65 = some (1, 0) ∧
    ran (fun t => (haltView t, t.getV 0)) ((base.setI 0xFF1).setV 0 0x77) 0xFF65 =
    some ((4, 0x200, 0x1000, 0x200), 0x77) := by decide

/-! Display. -/

/-- A display with given pixels (column, row) set. -/
def lit (ps : List (Fin 64 × Fin 32)) : Framebuffer :=
  ps.foldl (fun f p => f.toggle p.1 p.2) (Vector.replicate 32 0)

/-- T-D1 -/
theorem test_cls : ran (·.fb) { base with fb := lit [(0, 0), (63, 31), (5, 7)] } 0x00E0 = some (lit []) := by
  decide
/-- T-D4: one pixel collides and goes off, another goes on. -/
theorem test_drw_collision :
    ran (fun t => (t.fb, t.getV 0xF))
      { ((base.setI 0x300).writeBytes 0x300 [0xC0]).setV 0 1 with fb := lit [(0, 0), (1, 0)] } 0xD011 =
    some (lit [(0, 0), (2, 0)], 1) := by decide
/-- T-D7, T-D8: the corner under the two edge policies. -/
theorem test_drw_edge :
    ran (fun t => (t.fb, t.getV 0xF))
      ((((base.setI 0x300).writeBytes 0x300 [0xFF, 0x81]).setV 0 0x3E).setV 1 0x1F) 0xD012 =
    some (lit [(62, 31), (63, 31)], 0) ∧
    ran (·.fb)
      (((((withCfg fun c => { c with spriteEdge := .wrap }).setI 0x300).writeBytes 0x300
        [0xFF, 0x81]).setV 0 0x3E).setV 1 0x1F) 0xD012 =
    some (lit [(0, 31), (1, 31), (2, 31), (3, 31), (4, 31), (5, 0), (5, 31), (62, 0), (62, 31), (63, 31)]) := by
  decide

/-! Timers and keypad. -/

/-- T-T1 -/
theorem test_ldVxDt : ran (·.getV 3) (base.setDt 0x2A) 0xF307 = some 0x2A := by decide
/-- T-T2 -/
theorem test_ldDtVx : ran (fun t => (t.dt, t.st)) (base.setV 3 0xFF) 0xF315 = some (0xFF, 0) := by decide
/-- T-T4 -/
theorem test_ldStVx : ran (fun t => (t.dt, t.st)) (base.setV 3 5) 0xF318 = some (0, 5) := by decide
/-- T-K1, T-K2 -/
theorem test_skp :
    ran (·.pc) ((base.setKey 7 true).setV 3 7) 0xE39E = some 0x204 ∧
    ran (·.pc) ((base.setKey 6 true).setV 3 7) 0xE39E = some 0x202 := by decide
/-- T-K3, T-K4 -/
theorem test_sknp :
    ran (·.pc) ((base.setKey 7 true).setV 3 7) 0xE3A1 = some 0x202 ∧
    ran (·.pc) (base.setV 3 7) 0xE3A1 = some 0x204 := by decide
/-- T-K5 -/
theorem test_skp_lowNibble : ran (·.pc) ((base.setKey 7 true).setV 3 0x17) 0xE39E = some 0x204 := by decide
/-- T-K6, T-K7 -/
theorem test_ldVxK :
    ran (fun t => (t.getV 3, t.pc)) (base.setV 3 0x55) 0xF30A = some (0x55, 0x200) ∧
    ran (fun t => (t.getV 3, t.pc)) (((base.setKey 9 true).setKey 4 true).setV 3 0x55) 0xF30A =
      some (0x04, 0x202) := by decide

/-! Fatal conditions and events. -/

/-- T-X1, T-X6 -/
theorem test_unknown :
    ran haltView base 0x0000 = some (1, 0x200, 0, 0x200) ∧
    ran haltView base 0x5121 = some (1, 0x200, 0x5121, 0x200) := by decide
/-- T-E12: a halted core does not step. -/
theorem test_step_halted :
    seen (fun t => (t.pc, t.haltCause)) (step { base with haltCause := .stackOverflow }) =
    some (0x200, .stackOverflow) := by decide
/-- T-E1, T-E2 -/
theorem test_tick :
    (({ base with dt := 3, st := 1 }).tick.dt, ({ base with dt := 3, st := 1 }).tick.st) = (2, 0) ∧
    (base.tick.dt, base.tick.st) = (0, 0) := by decide
/-- T-E9, T-E6 -/
theorem test_setKey :
    seen (·.keyDown 7) (applyEvent (.setKey 16 true) base) = none ∧
    seen (·.keyDown 7) (applyEvent (.setKey 7 true) base) = some true := by decide
/-- P1 (b): the source's own program, loaded and stepped twice. -/
theorem test_program_sum :
    (seen (fun t => t) (loadProgram [0x6A, 0x05, 0x7A, 0x03] base)).bind (fun s =>
      (seen (fun t => t) (step s)).bind fun u => seen (fun t => (t.getV 0xA, t.pc)) (step u)) =
    some (8, 516) := by decide
/-- U14: a load is refused once the machine has stepped. -/
theorem test_load_refused : seen (·.pc) (loadProgram [0x12] { base with pc := 514 }) = none := by decide
/-- T-E13: reset leaves the halted state and drops the program. -/
theorem test_reset_event :
    ((base.withFetchWord 16 0x1200).raise .unknownOpcode 0).resetEvent = base := by decide

/-! Witnesses: for each statement with hypotheses, a concrete state and operands that meet all of them,
with the boundary values of its clauses. -/

/-- The base state at another `PC`, with a word placed there. -/
def at_ (pc : Word) (w : Nat) : State := ({ base with pc := pc }).withFetchWord 16 w

/-- A next state that shows `P`, found by evaluation. -/
theorem next_of_seen {P : State → Prop} [DecidablePred P] {r : Result}
    (h : seen (fun t => decide (P t)) r = some true) : ∃ t, r = .next t ∧ P t := by
  cases r with
  | next t => exact ⟨t, rfl, by simpa [seen] using h⟩
  | fault f => cases h
  | refused f => cases h

theorem witness_EncodeOfDecode : decode 0xFF65 = some (.ldRegs 0xF) := by decide
theorem witness_DecodeAccepts :
    decode 0x8F0E = some (.shl 0xF 0x0) ∧ ∃ r ∈ opcodeTable, (0x8F0E : Word) &&& r.mask = r.bits := by decide
theorem witness_NoWordMatchesTwoRows :
    ∃ r ∈ opcodeTable, ∃ q ∈ opcodeTable, (0x00EE : Word) &&& r.mask = r.bits ∧ (0x00EE : Word) &&& q.mask = q.bits := by
  decide
/-- `PC` at 4094, the last address a fetch may start at. -/
theorem witness_StepRunsDecoded :
    (at_ 4094 0x6A05).haltCause = .running ∧ (at_ 4094 0x6A05).pc.toNat ≤ 4094 ∧
    decode (BitVec.ofNat 16 (((at_ 4094 0x6A05).readByte (at_ 4094 0x6A05).pc.toNat).toNat * 256 +
      ((at_ 4094 0x6A05).readByte ((at_ 4094 0x6A05).pc.toNat + 1)).toNat)) = some (.ldImm 0xA 0x05) := by
  decide
theorem witness_HaltedStep : (base.raise .stackUnderflow 0).halted := by decide
theorem witness_FetchOutOfRange :
    base.haltCause = .running ∧ 4094 < ({ base with pc := 4095 }).pc.toNat := by decide
theorem witness_UnknownWord :
    (at_ 4094 0x5121).haltCause = .running ∧ (at_ 4094 0x5121).pc.toNat ≤ 4094 ∧
    decode (at_ 4094 0x5121).fetchWord = none := by decide
theorem witness_FatalStep :
    (at_ 0x200 0x00EE).haltCause = .running ∧
    ∃ t, step (at_ 0x200 0x00EE) = .next t ∧ t.halted := 
  ⟨by decide, next_of_seen (by decide)⟩
theorem witness_HaltLasts :
    (base.raise .unknownOpcode 0).halted ∧ Event.tick ≠ .reset ∧
    ∃ t, applyEvent .tick (base.raise .unknownOpcode 0) = .next t ∧ t.halted :=
  ⟨by decide, by decide, next_of_seen (by decide)⟩
/-- T-C3: the self-jump of the launch state; the run that loads it ends there, one event after reset. -/
theorem witness_EndOfRun :
    (at_ 0x200 0x1200).AtSelfJump 0x200 ∧ seen (fun t => t) (step (at_ 0x200 0x1200)) = some (at_ 0x200 0x1200) ∧
    ∃ t, EndsRun 0x200 [.loadProgram [0x12, 0x00]] base t := by
  refine ⟨by decide, by decide, ?_⟩
  obtain ⟨t, h, ht⟩ := next_of_seen (P := fun t => t.AtSelfJump 0x200)
    (r := applyEvents [.loadProgram [0x12, 0x00]] base) (by decide)
  refine ⟨t, h, ht, fun k u hk hu => ?_⟩
  have h0 : k = 0 := by simpa using hk
  subst h0
  cases hu
  decide
/-- A halted core at the same place is at no end of a run. -/
theorem test_halted_no_end : ¬ ((at_ 0x200 0x1200).raise .unknownOpcode 0).AtSelfJump 0x200 := by decide
theorem witness_Reachable : Reachable base.tick :=
  .event base base.tick .tick (.reset referenceConfig test_referenceConfig_wf) rfl
theorem witness_OnlySixRaise :
    base.haltCause = .running ∧
    (∃ t, exec .ret base = .next t ∧ t.halted) ∧
    (∃ t, exec (.call 0x300) { base with sp := 12 } = .next t ∧ t.halted) ∧
    (∃ t, exec (.drw 0 0 1) (base.setI 0x1000) = .next t ∧ t.halted) ∧
    (∃ t, exec (.ldB 0) (base.setI 0xFFE) = .next t ∧ t.halted) ∧
    (∃ t, exec (.stRegs 0) (base.setI 0x1000) = .next t ∧ t.halted) ∧
    ∃ t, exec (.ldRegs 0xF) (base.setI 0xFF1) = .next t ∧ t.halted :=
  ⟨rfl, next_of_seen (by decide), next_of_seen (by decide), next_of_seen (by decide), next_of_seen (by decide),
    next_of_seen (by decide), next_of_seen (by decide)⟩
/-- With no return address held, the invariant is a closed finite question. -/
theorem inv_of_empty {s : State} (h0 : s.sp = 0)
    (h : s.cfg.wf ∧ s.pc.toNat ≤ 4350 ∧ s.stack.length = s.cfg.stackCapacity ∧ s.mem.wf s.cfg) : StateInv s :=
  ⟨h.1, h.2.1, by omega, h.2.2.1, by simp [h0], h.2.2.2⟩
theorem witness_ResetInv : referenceConfig.wf ∧ StateInv State.reset := ⟨by decide, inv_of_empty rfl (by decide)⟩
/-- A state that holds return addresses at both ends of their range. -/
theorem witness_Inv_deep : StateInv { base with sp := 2, stack := [2, 4096] ++ List.replicate 10 0 } :=
  ⟨by decide, by decide, by decide, by decide, by simp, by decide⟩
theorem witness_StepKeepsInv :
    StateInv (at_ 0x200 0x2300) ∧ ∃ t, step (at_ 0x200 0x2300) = .next t ∧ t.sp = 1 :=
  ⟨inv_of_empty (by decide) (by decide), next_of_seen (by decide)⟩
theorem witness_EventsKeepInv :
    StateInv base ∧ ∃ t, applyEvent (.loadProgram [0x12, 0x00]) base = .next t ∧ t.readByte 512 = 0x12 :=
  ⟨inv_of_empty rfl (by decide), next_of_seen (by decide)⟩
/-- An instruction that is none of the named ones, in both cases of the last clause. -/
theorem witness_OnlyNamedInstructionsWrite :
    (∃ t, exec (.ldImm 0xF 1) base = .next t) ∧ (∃ t, exec (.stRegs 0xF) base = .next t) ∧
    base.cfg.memInc = .unchanged := ⟨⟨_, rfl⟩, ⟨_, rfl⟩, rfl⟩
/-- A register no clause names, and one that is not written; an instruction that cannot raise. -/
theorem witness_writesV_canRaise :
    writesV base.cfg (.ldRegs 0xE) 0xF = false ∧ writesV base.cfg (.addI 0xF) 0xF = false ∧
    writesV base.cfg (.addReg 0 0) 0xF = true ∧ canRaise (.drw 0 0 0) = false ∧ canRaise (.drw 0 0 1) = true := by
  decide
/-- Under `X_PLUS_1` the last clause is about neither `Fx55` nor `Fx65`. -/
theorem witness_OnlyNamed_xPlus1 :
    (withCfg fun c => { c with memInc := .xPlus1 }).cfg.memInc = .xPlus1 ∧
    ∃ t, exec (.ldB 0) (withCfg fun c => { c with memInc := .xPlus1 }) = .next t := ⟨rfl, _, rfl⟩
/-- A font at the highest legal address, whose last byte is the one below the program area. -/
theorem witness_ResetValues :
    Config.wf { referenceConfig with fontBase := 432 } ∧ 11 < referenceConfig.stackCapacity ∧
    (withCfg fun c => { c with fontBase := 432 }).readByte 511 = 0x80 ∧
    (withCfg fun c => { c with fontBase := 432 }).readByte 512 = 0 := by decide
theorem witness_LoadProgramPlaces :
    referenceConfig.wf ∧ (List.replicate 3584 (0 : Byte)).length ≤ 3584 ∧ ([] : List Byte).length ≤ 3584 :=
  ⟨by decide, by rw [List.length_replicate], by decide⟩
theorem witness_LoadProgramRefused :
    3584 < (List.replicate 3585 (0 : Byte)).length ∧ ([0x12] : List Byte).length ≤ 3584 ∧
    { { base with pc := 514 } with draws := [], drawCount := 0 } ≠ State.resetWith base.cfg :=
  ⟨by rw [List.length_replicate]; decide, by decide, by decide⟩
/-- Both sides of the boundary between key 15 and the index 16. -/
theorem witness_SetKey :
    (∃ t, applyEvent (.setKey 15 true) base = .next t ∧ keyState 15 t = some true ∧ keyState 14 t = some false) ∧
    applyEvent (.keyState 15) base = .next base ∧
    applyEvent (.setKey 16 true) base = .refused .keyIndexOutOfRange ∧
    applyEvent (.keyState 16) base = .refused .keyIndexOutOfRange := ⟨⟨_, rfl, by decide⟩, rfl, rfl, rfl⟩
theorem witness_Jump : ({ base with pc := 0xFFF }).pc.toNat = (0xFFF : Addr).toNat := by decide
/-- The last free slot of the stack. -/
theorem witness_CallPushes :
    ({ base with sp := 11 }).sp < ({ base with sp := 11 }).cfg.stackCapacity ∧
    ({ base with sp := 11 }).stack.length = ({ base with sp := 11 }).cfg.stackCapacity := by decide
theorem witness_ReturnPops :
    ({ base with sp := 12 }).sp ≠ 0 ∧ ({ base with sp := 12 }).stack[({ base with sp := 12 }).sp - 1]? = some 0 := by
  decide
theorem witness_StackMisuse : ({ base with sp := 12 }).sp = ({ base with sp := 12 }).cfg.stackCapacity ∧ base.sp = 0 := by
  decide
theorem witness_MissingStackSlot :
    ({ base with sp := 13 }).sp ≠ ({ base with sp := 13 }).cfg.stackCapacity ∧
    ({ base with sp := 13 }).stack.length ≤ ({ base with sp := 13 }).sp ∧
    ({ base with sp := 13 }).sp ≠ 0 ∧ ({ base with sp := 13 }).stack.length ≤ ({ base with sp := 13 }).sp - 1 := by
  decide
theorem witness_ReturnFollowsCall :
    base.sp < base.cfg.stackCapacity ∧ base.stack.length = base.cfg.stackCapacity ∧
    ∃ t, exec (.call 0x300) base = .next t ∧ (t.setV 3 7).sp = t.sp ∧
      ∀ k, k < t.sp → (t.setV 3 7).stack[k]? = t.stack[k]? := ⟨by decide, by decide, _, rfl, rfl, fun _ _ => rfl⟩
theorem witness_AddRegister_flag : (0xE : Nibble) ≠ vf ∧ ¬ (0xF : Nibble) ≠ vf := by decide
theorem witness_Shifts :
    (0x81 : Byte) = (if (base.setV 1 0x81).cfg.shiftSrc = .vx then (base.setV 1 0x81).getV 1 else (base.setV 1 0x81).getV 2) ∧
    (0x40 : Byte) = (if ((withCfg fun c => { c with shiftSrc := .vy }).setV 2 0x40).cfg.shiftSrc = .vx
      then ((withCfg fun c => { c with shiftSrc := .vy }).setV 2 0x40).getV 1
      else ((withCfg fun c => { c with shiftSrc := .vy }).setV 2 0x40).getV 2) := by decide
/-- A chosen draw, a free draw, and a mask with a clear bit. -/
theorem witness_Random :
    ({ base with draws := [0xA7, 0x01] }).draws = 0xA7 :: [0x01] ∧ base.draws = [] ∧
    (0x7F : Byte).getLsbD 7 = false := by decide
theorem witness_StepEvent : (at_ 4094 0xC30F).fetch = .run (.rnd 3 0x0F) := by decide
theorem witness_StepEvent_other : ∀ x nn, (at_ 4094 0x00E0).fetch ≠ .run (.rnd x nn) := by
  have h : (at_ 4094 0x00E0).fetch = .run .cls := by decide
  intro x nn e
  rw [h] at e
  cases e
theorem witness_OnlyRandomReads : ∀ x nn, Instr.skp 3 ≠ .rnd x nn := by intro x nn h; cases h
theorem witness_SubtractUndoesAdd : (0 : Nibble) ≠ vf ∧ (0xE : Nibble) ≠ vf ∧ (0 : Nibble) ≠ 0xE := by decide
theorem witness_AddToIndex : (withCfg fun c => { c with indexCarry := .on }).cfg.indexCarry = .on := by decide
theorem witness_Glyph : (withCfg fun c => { c with fontBase := 432 }).cfg.wf := by decide
theorem witness_Bcd : (base.setI 0xFFD).i.toNat + 2 ≤ 4095 := by decide
/-- The longest transfer that ends at 4095, and the last register it moves. -/
theorem witness_StoreLoadRegs :
    ((withCfg fun c => { c with memInc := .xPlus1 }).setI 0xFF0).i.toNat + (0xF : Nibble).toNat ≤ 4095 ∧
    (0xF : Nibble).toNat ≤ (0xF : Nibble).toNat ∧
    ((withCfg fun c => { c with memInc := .xPlus1 }).setI 0xFF0).cfg.memInc = .xPlus1 := by decide
/-- Each clause at the first address it covers. -/
theorem witness_DataOutOfRange :
    4095 < (base.setI 0xFFE).i.toNat + 2 ∧ 4095 < (base.setI 0xFF1).i.toNat + (0xF : Nibble).toNat ∧
    4095 < (base.setI 0x1000).i.toNat + (0 : Nibble).toNat ∧ (0xF : Nibble) ≠ 0 ∧
    4095 < (base.setI 0xFF2).i.toNat + (0xF : Nibble).toNat - 1 := by decide
theorem witness_StoreThenLoad : base.cfg.memInc = .unchanged := by decide
/-- The stored word is the last one that can be fetched. -/
theorem witness_StoredWord :
    (1 : Nibble) ≠ 0 ∧ (({ base with pc := 0xFFC }).setI 0xFFE).i.toNat + (1 : Nibble).toNat ≤ 4095 ∧
    (({ base with pc := 0xFFC }).setI 0xFFE).i = (({ base with pc := 0xFFC }).setI 0xFFE).pc + 2 := by decide

/-- One sprite row of eight bits at 4095, drawn at the top left corner, with one pixel of it already set. -/
def drawBase : State :=
  { ((base.setI 0xFFF).writeBytes 0xFFF [0xC0]).setV 0 0 with fb := lit [(1, 0), (9, 9)] }

/-- In range at the last address; a covered set pixel, a covered clear one, and one that is not covered. -/
theorem witness_Draw :
    drawBase.i.toNat + (1 : Nibble).toNat - 1 ≤ 4095 ∧
    SpriteCovers drawBase 0 0 1 0 0 ∧ SpriteCovers drawBase 0 0 1 1 0 ∧ ¬ SpriteCovers drawBase 0 0 1 9 9 ∧
    SpriteCollides drawBase 0 0 1 :=
  ⟨by decide, ⟨0, 0, by decide, by decide, by decide, rfl, rfl⟩, ⟨0, 1, by decide, by decide, by decide, rfl, rfl⟩,
    fun ⟨k, _, hk, _, _, _, hy⟩ => by
      have h : k = 0 := by simpa using hk
      subst h
      exact absurd hy (by decide),
    1, 0, ⟨0, 1, by decide, by decide, by decide, rfl, rfl⟩, by decide⟩
/-- With `n = 0` any `I` is in range, and nothing collides. -/
theorem witness_Draw_empty : ((0 : Nibble) = 0 ∨ (base.setI 0xFFFF).i.toNat + (0 : Nibble).toNat - 1 ≤ 4095) ∧
    ¬ SpriteCollides (base.setI 0xFFFF) 0 0 0 :=
  ⟨.inl rfl, fun ⟨_, _, ⟨_, _, hk, _⟩, _⟩ => absurd hk (Nat.not_lt_zero _)⟩
theorem witness_DrawTwice :
    (0 : Nibble) ≠ vf ∧ (0xE : Nibble) ≠ vf ∧ drawBase.i.toNat + (1 : Nibble).toNat - 1 ≤ 4095 := by decide
/-- A register value above 15 names the key of its low four bits. -/
theorem witness_KeySkips : (0xF : Nibble).toNat = ((base.setV 3 0xFF).getV 3).toNat % 16 := by decide
/-- No key, then keys 15 and 9 with 9 the lowest. -/
theorem witness_WaitForKey :
    (∀ k, base.keyDown k = false) ∧ ((base.setKey 15 true).setKey 9 true).keyDown 9 = true ∧
    ∀ j : Nibble, j.toNat < (9 : Nibble).toNat → ((base.setKey 15 true).setKey 9 true).keyDown j = false := by decide

end Sys2Proof.Tests
end

section
/-!
PROOF. The invariant of the state record (10_state.md R32): one rule per state operation, then the
instructions, the step, the host's events and the reachable states.
-/
namespace Sys2Proof.Machine
variable {s t : State}

/-! What each operation needs to keep the invariant. -/

theorem StateInv.setV (h : StateInv s) (x : Nibble) (b : Byte) : StateInv (s.setV x b) := h
theorem StateInv.setI (h : StateInv s) (w : Word) : StateInv (s.setI w) := h
theorem StateInv.setDt (h : StateInv s) (b : Byte) : StateInv (s.setDt b) := h
theorem StateInv.setSt (h : StateInv s) (b : Byte) : StateInv (s.setSt b) := h
theorem StateInv.setFb (h : StateInv s) (f : Framebuffer) : StateInv (s.setFb f) := h
theorem StateInv.setKey (h : StateInv s) (k : Nibble) (p : Bool) : StateInv (s.setKey k p) := h
theorem StateInv.raise (h : StateInv s) (c : HaltCause) (w : Word) : StateInv (s.raise c w) := h
theorem StateInv.loadRegs (h : StateInv s) (x : Nibble) : StateInv (s.loadRegs x) := h
theorem StateInv.writeFlagResult (h : StateInv s) (x : Nibble) (p : Byte × Byte) :
    StateInv (s.writeFlagResult x p) := h

theorem StateInv.writeIndexFlag (h : StateInv s) (n : Nat) : StateInv (s.writeIndexFlag n) := by
  simpa only [StateInv, writeIndexFlag_cfg, writeIndexFlag_pc, writeIndexFlag_sp, writeIndexFlag_stack,
    writeIndexFlag_mem] using h

theorem StateInv.postIncI (h : StateInv s) (x : Nibble) : StateInv (s.postIncI x) := by
  simpa only [StateInv, postIncI_cfg, postIncI_pc, postIncI_sp, postIncI_stack, postIncI_mem] using h

theorem StateInv.consumeDraw (h : StateInv s) : StateInv s.consumeDraw := by
  simpa only [StateInv, consumeDraw_cfg, consumeDraw_pc, consumeDraw_sp, consumeDraw_stack,
    consumeDraw_mem] using h

theorem StateInv.setPc (h : StateInv s) {w : Word} (hw : w.toNat ≤ 4350) : StateInv (s.setPc w) := by
  obtain ⟨hcfg, -, hrest⟩ := h
  exact ⟨hcfg, hw, hrest⟩

/-- The fetch check of R65 leaves room below 4350 for the ordinary end of an instruction. -/
theorem StateInv.advance (h : StateInv s) (hpc : s.pc.toNat ≤ 4094) : StateInv s.advance :=
  h.setPc (by rw [State.npc]; bv_omega)

/-- The same for a skip, taken or not (R138). -/
theorem StateInv.skipWhen (h : StateInv s) (hpc : s.pc.toNat ≤ 4094) (b : Bool) :
    StateInv (s.skipWhen b) := by
  cases b
  · exact h.advance hpc
  · exact h.setPc (by rw [State.npc]; bv_omega)

theorem StateInv.writeBytes (h : StateInv s) (a : Nat) (bs : List Byte) :
    StateInv (s.writeBytes a bs) := by
  obtain ⟨hcfg, hpc, hsp, hlen, hret, hmem⟩ := h
  exact ⟨hcfg, hpc, hsp, hlen, hret, writeList_wf bs hmem a⟩

/-- Writing the first free slot adds that entry to the held ones and keeps the others. -/
theorem take_succ_set {l : List Word} {n : Nat} (hn : n < l.length) (w : Word) :
    (l.set n w).take (n + 1) = l.take n ++ [w] := by
  rw [List.take_add_one, List.take_set_of_le (Nat.le_refl n), List.getElem?_set_self hn]
  rfl

theorem StateInv.pushSlot (h : StateInv s) {w : Word} (hroom : s.sp < s.stack.length)
    (hw : 2 ≤ w.toNat ∧ w.toNat ≤ 4096) :
    StateInv { s with stack := s.stack.set s.sp w, sp := s.sp + 1 } := by
  obtain ⟨hcfg, hpc, hsp, hlen, hret, hmem⟩ := h
  refine ⟨hcfg, hpc, hlen ▸ hroom, (List.length_set ..).trans hlen, fun v hv => ?_, hmem⟩
  rw [take_succ_set hroom, List.mem_append, List.mem_singleton] at hv
  rcases hv with hv | rfl
  · exact hret v hv
  · exact hw

/-- What a return finds in its slot is a held return address. -/
theorem StateInv.top_le (h : StateInv s) {w : Word} (hsp : s.sp ≠ 0)
    (hw : s.stack[s.sp - 1]? = some w) : w.toNat ≤ 4096 := by
  obtain ⟨-, -, -, -, hret, -⟩ := h
  refine (hret w (List.mem_of_getElem? (i := s.sp - 1) ?_)).2
  rw [List.getElem?_take_of_lt (by omega), hw]

theorem StateInv.popSlot (h : StateInv s) : StateInv { s with sp := s.sp - 1 } := by
  obtain ⟨hcfg, hpc, hsp, hlen, hret, hmem⟩ := h
  exact ⟨hcfg, hpc, (Nat.sub_le ..).trans hsp, hlen,
    fun v hv => hret v (List.take_subset_take_left _ (Nat.sub_le ..) hv), hmem⟩

/-- An access to memory keeps the invariant when its effect does. -/
theorem StateInv.of_guardRange {k : Nat} {body : State} (h : StateInv s) (hbody : StateInv body)
    (ht : guardRange s k body = .next t) : StateInv t := by
  rcases guardRange_cases ht with ⟨-, rfl⟩ | ⟨-, rfl⟩
  · exact hbody
  · exact h.raise _ _

/-! The instructions, at a `PC` from which they can be fetched. -/

theorem StateInv.of_execCall {nnn : Addr} (h : StateInv s) (hpc : s.pc.toNat ≤ 4094)
    (ht : execCall nnn s = .next t) : StateInv t := by
  rcases execCall_cases ht with ⟨-, rfl⟩ | ⟨-, hroom, rfl⟩
  · exact h.raise _ _
  · have hret : 2 ≤ s.npc.toNat ∧ s.npc.toNat ≤ 4096 := by rw [State.npc]; bv_omega
    exact (h.pushSlot hroom hret).setPc (by rw [zextAddr]; bv_omega)

theorem StateInv.of_execRet (h : StateInv s) (ht : execRet s = .next t) : StateInv t := by
  rcases execRet_cases ht with ⟨-, rfl⟩ | ⟨hsp, w, hw, rfl⟩
  · exact h.raise _ _
  · exact h.popSlot.setPc ((h.top_le hsp hw).trans (by decide))

theorem StateInv.of_execLdVxK {x : Nibble} (h : StateInv s) (hpc : s.pc.toNat ≤ 4094)
    (ht : execLdVxK x s = .next t) : StateInv t := by
  rcases execLdVxK_cases ht with ⟨-, rfl⟩ | ⟨k, -, rfl⟩
  · exact h
  · exact (h.setV _ _).advance hpc

/-- R133: the unreduced sum of `Bnnn` is what makes 4350 the bound of `PC`. -/
theorem jpV0_target_le (b : Byte) (nnn : Addr) : (zextByte b + zextAddr nnn).toNat ≤ 4350 := by
  rw [zextByte, zextAddr]
  bv_omega

theorem StateInv.of_exec {i : Instr} (h : StateInv s) (hpc : s.pc.toNat ≤ 4094)
    (ht : exec i s = .next t) : StateInv t := by
  cases i with
  | cls => exact Host.Outcome.next.inj ht ▸ (h.setFb _).advance hpc
  | ret => exact h.of_execRet ht
  | jp nnn => exact Host.Outcome.next.inj ht ▸ h.setPc (by rw [zextAddr]; bv_omega)
  | call nnn => exact h.of_execCall hpc ht
  | jpV0 nnn => exact Host.Outcome.next.inj ht ▸ h.setPc (jpV0_target_le _ _)
  | seImm | sneImm | seReg | sneReg | skp | sknp =>
    exact Host.Outcome.next.inj ht ▸ h.skipWhen hpc _
  | ldImm | addImm | ldReg | orReg | andReg | xorReg | ldVxDt =>
    exact Host.Outcome.next.inj ht ▸ (h.setV _ _).advance hpc
  | addReg | sub | shr | subn | shl =>
    exact Host.Outcome.next.inj ht ▸ (h.writeFlagResult _ _).advance hpc
  | rnd x nn =>
    exact Host.Outcome.next.inj ht ▸ (h.consumeDraw.setV _ _).advance (by simpa using hpc)
  | ldI | ldF => exact Host.Outcome.next.inj ht ▸ (h.setI _).advance hpc
  | addI x =>
    exact Host.Outcome.next.inj ht ▸ ((h.writeIndexFlag _).setI _).advance (by simpa using hpc)
  | ldDtVx x => exact Host.Outcome.next.inj ht ▸ (h.setDt _).advance hpc
  | ldStVx x => exact Host.Outcome.next.inj ht ▸ (h.setSt _).advance hpc
  | ldVxK x => exact h.of_execLdVxK hpc ht
  | drw x y n => exact h.of_guardRange (((h.setFb (s.drawSprite x y n).1).setV _ _).advance hpc) ht
  | ldB x => exact h.of_guardRange ((h.writeBytes _ _).advance hpc) ht
  | stRegs x =>
    exact h.of_guardRange (((h.writeBytes _ _).postIncI x).advance (by simpa using hpc)) ht
  | ldRegs x =>
    exact h.of_guardRange (((h.loadRegs x).postIncI x).advance (by simpa using hpc)) ht

theorem StateInv.of_step (h : StateInv s) (ht : step s = .next t) : StateInv t := by
  rcases step_cases ht with ⟨-, rfl⟩ | ⟨-, -, rfl⟩ | ⟨-, -, -, rfl⟩ | ⟨i, -, hpc, -, hi⟩
  · exact h
  · exact h.raise _ _
  · exact h.raise _ _
  · exact h.of_exec hpc hi

/-- Settles O13: every end a step can have is an operation, or an instruction, that keeps the
invariant. -/
theorem stepKeepsStateInv : Obligations.StepKeepsStateInv := fun _ _ h ht => h.of_step ht

end Sys2Proof.Machine
end

section
/-!
PROOF. What a call and a return answer in each case (R131, R132), and that no step of a state that meets
the invariant ends in a fault or a refusal.
-/
namespace Sys2Proof.Machine
variable {s : State}

/-! The stack instructions: the range check, then the slot. -/

theorem execCall_of_full (nnn : Addr) (hsp : s.sp = s.cfg.stackCapacity) :
    execCall nnn s = .next (s.raise .stackOverflow 0) := if_pos hsp

theorem execRet_of_empty (hsp : s.sp = 0) : execRet s = .next (s.raise .stackUnderflow 0) := if_pos hsp

theorem execCall_of_slot (nnn : Addr) (hsp : s.sp ≠ s.cfg.stackCapacity)
    (hslot : s.sp < s.stack.length) :
    execCall nnn s =
      .next { s with stack := s.stack.set s.sp s.npc, sp := s.sp + 1, pc := zextAddr nnn } := by
  rw [execCall, if_neg hsp, push_eq_some.2 ⟨hslot, rfl⟩]
  rfl

theorem execCall_of_no_slot (nnn : Addr) (hsp : s.sp ≠ s.cfg.stackCapacity)
    (hslot : s.stack.length ≤ s.sp) : execCall nnn s = .fault .noStackSlot := by
  rw [execCall, if_neg hsp, State.push, if_neg (Nat.not_lt.2 hslot)]

theorem execRet_of_slot {w : Word} (hsp : s.sp ≠ 0) (hslot : s.stack[s.sp - 1]? = some w) :
    execRet s = .next { s with pc := w, sp := s.sp - 1 } := by
  rw [execRet, if_neg hsp, popPc_eq_some.2 ⟨w, hslot, rfl⟩]

theorem execRet_of_no_slot (hsp : s.sp ≠ 0) (hslot : s.stack.length ≤ s.sp - 1) :
    execRet s = .fault .noStackSlot := by
  rw [execRet, if_neg hsp, State.popPc, List.getElem?_eq_none hslot]

/-- Settles O30: past the range check, a missing slot is the one way a call or a return can fault. -/
theorem missingStackSlotFaults : Obligations.MissingStackSlotFaults :=
  ⟨fun _ nnn hsp hslot => execCall_of_no_slot nnn hsp hslot,
    fun _ hsp hslot => execRet_of_no_slot hsp hslot⟩

/-! Under the invariant the slot is there, so every instruction answers a next state. -/

theorem execCall_next (h : StateInv s) (nnn : Addr) : ∃ t, execCall nnn s = .next t := by
  obtain ⟨-, -, hle, hlen, -, -⟩ := h
  by_cases hsp : s.sp = s.cfg.stackCapacity
  · exact ⟨_, execCall_of_full nnn hsp⟩
  · exact ⟨_, execCall_of_slot nnn hsp (by omega)⟩

theorem execRet_next (h : StateInv s) : ∃ t, execRet s = .next t := by
  obtain ⟨-, -, hle, hlen, -, -⟩ := h
  by_cases hsp : s.sp = 0
  · exact ⟨_, execRet_of_empty hsp⟩
  · exact ⟨_, execRet_of_slot hsp (List.getElem?_eq_getElem (by omega))⟩

theorem execLdVxK_next (s : State) (x : Nibble) : ∃ t, execLdVxK x s = .next t := by
  unfold execLdVxK
  split <;> exact ⟨_, rfl⟩

theorem guardRange_next (s body : State) (k : Nat) : ∃ t, guardRange s k body = .next t := by
  by_cases h : InRange s.i k
  · exact ⟨_, guardRange_in h⟩
  · exact ⟨_, guardRange_out h⟩

theorem exec_next (h : StateInv s) (i : Instr) : ∃ t, exec i s = .next t := by
  cases i with
  | call nnn => exact execCall_next h nnn
  | ret => exact execRet_next h
  | ldVxK x => exact execLdVxK_next s x
  | drw | ldB | stRegs | ldRegs => exact guardRange_next s _ _
  | _ => exact ⟨_, rfl⟩

theorem step_of_done {t : State} (h : s.fetch = .done t) : step s = .next t := by
  rw [step, h]

theorem step_of_run {i : Instr} (h : s.fetch = .run i) : step s = exec i s := by
  rw [step, h]

/-- Settles O12: fetch ends the step in a state or names an instruction, and under the invariant every
instruction answers a next state. -/
theorem stepAlwaysAnswersNext : Obligations.StepAlwaysAnswersNext := by
  intro s h
  cases hf : s.fetch with
  | done t => exact ⟨t, step_of_done hf⟩
  | run i => exact step_of_run hf ▸ exec_next h i

/-- Settles O7: the halt is the first thing fetch checks. -/
theorem haltedStepChangesNothing : Obligations.HaltedStepChangesNothing :=
  fun _ h => step_of_done (if_pos h)

end Sys2Proof.Machine
end

section
/-!
PROOF. The state after reset (R38) and the host's events (R40 to R49): the values and frames they leave,
and that they keep the invariant, so that every reachable state meets it.
-/
namespace Sys2Proof.Machine
variable {s t : State}

/-! Reset. -/

theorem initByte_font (c : Config) (k : Fin 80) : initByte c (c.fontBase + k.val) = c.font.get k := by
  rw [initByte, dif_pos (by omega), Vector.get_eq_getElem]
  simp only [Nat.add_sub_cancel_left]

theorem initByte_outside_font (c : Config) {a : Nat} (h : a < c.fontBase ∨ c.fontBase + 80 ≤ a) :
    initByte c a = 0 :=
  dif_neg (by omega)

/-- With nothing listed, memory reads as its reset contents. -/
theorem readByte_resetWith (c : Config) (a : Nat) : (State.resetWith c).readByte a = initByte c a := rfl

/-- Settles O19: the fields by the definition of reset, memory by what an unlisted address reads as. -/
theorem resetValues : Obligations.ResetValues := by
  intro c _
  refine ⟨fun k => Vector.getElem_replicate _, rfl, rfl, rfl, fun k hk => ?_, rfl, rfl,
    fun k => Vector.getElem_replicate _, pixel_clear, fun k => ?_, fun a ha => ?_, rfl, rfl, rfl⟩
  · exact List.getElem?_replicate_of_lt hk
  · rw [readByte_resetWith, initByte_font]
  · rw [readByte_resetWith, initByte_outside_font c ha]

/-- Settles O17: `PC` is 512, the stack is empty with a slot for every entry, and memory lists nothing. -/
theorem resetMeetsStateInv : Obligations.ResetMeetsStateInv := fun c hc =>
  ⟨hc, show (512 : Word).toNat ≤ 4350 by decide, Nat.zero_le _, List.length_replicate,
    fun _ hw => absurd hw List.not_mem_nil, resetWith_mem_wf c⟩

/-- Settles O20: the event is the reset state with the environment's draws kept. -/
theorem resetEventRestartsCore : Obligations.ResetEventRestartsCore := fun _ => ⟨_, rfl, rfl⟩

/-! Loading a program. -/

theorem loadProgram_of_reset {bytes : List Byte} (hlen : bytes.length ≤ maxImage)
    (hs : s = s.resetEvent) : loadProgram bytes s = .next (s.writeBytes programBase bytes) := by
  rw [loadProgram, if_neg (Nat.not_lt.2 hlen), if_pos hs]

theorem loadProgram_of_not_reset {bytes : List Byte} (hlen : bytes.length ≤ maxImage)
    (hs : s ≠ s.resetEvent) : loadProgram bytes s = .refused .loadNotAfterReset := by
  rw [loadProgram, if_neg (Nat.not_lt.2 hlen), if_neg hs]

/-- A load that answers a next state has written the image and nothing else (R46). -/
theorem loadProgram_eq_next {bytes : List Byte} (h : loadProgram bytes s = .next t) :
    t = s.writeBytes programBase bytes := by
  unfold loadProgram at h
  split_ifs at h
  exact (Host.Outcome.next.inj h).symm

/-- Settles O21: the image fits between 512 and the end of memory, so that reading back what
`writeBytes` stored, and its frame, give the statement. -/
theorem loadProgramPlacesImage : Obligations.LoadProgramPlacesImage := by
  intro c bytes _ hlen
  have hfit : programBase + bytes.length ≤ memSize := by unfold programBase memSize; omega
  refine ⟨_, loadProgram_of_reset hlen rfl, fun k hk => ?_, rfl, frame_writeBytes _ _ _ hfit⟩
  rw [readByte_writeBytes _ _ _ _ hfit, dif_pos (by unfold programBase; omega)]
  simp only [programBase, Nat.add_sub_cancel_left]

/-- Settles O22: the length is checked first; and a state equal to its own reset event is the reset
state but for the draws. -/
theorem loadProgramRefused : Obligations.LoadProgramRefused := by
  refine fun s bytes => ⟨fun hlong => if_pos hlong, fun hlen hne => ?_⟩
  exact loadProgram_of_not_reset hlen fun hs =>
    hne (congrArg (fun u : State => { u with draws := [], drawCount := 0 }) hs)

/-! Timers and keys. -/

theorem countDown_toNat (b : Byte) : (countDown b).toNat = b.toNat - 1 := by
  unfold countDown
  split
  · next h => rw [h]; rfl
  · next h => bv_omega

/-- Settles O23. -/
theorem tickCountsDownBothTimers : Obligations.TickCountsDownBothTimers := fun s =>
  ⟨s.tick, rfl, countDown_toNat s.dt, countDown_toNat s.st, rfl⟩

theorem keyState_of_lt {k : Nat} (hk : k < 16) (s : State) :
    keyState k s = some (s.keyDown (BitVec.ofNat 4 k)) := if_pos hk

theorem setKeyEvent_of_lt {k : Nat} (hk : k < 16) (p : Bool) (s : State) :
    setKeyEvent k p s = .next (s.setKey (BitVec.ofNat 4 k) p) := if_pos hk

theorem ofNat_nibble_ne {j k : Nat} (hj : j < 16) (hk : k < 16) (h : j ≠ k) :
    BitVec.ofNat 4 k ≠ BitVec.ofNat 4 j := by
  bv_omega

/-- The observer reads the entry of `KEY` that the index names (R44). -/
theorem keyState_eq_getElem? {k : Nat} (hk : k < 16) (s : State) : keyState k s = s.key[k]? := by
  have hmod : (BitVec.ofNat 4 k).toNat = k := Nat.mod_eq_of_lt hk
  simp only [keyState_of_lt hk, State.keyDown, hmod, Vector.getElem?_eq_getElem hk]

/-- Settles O25: below 16 two indices are two keys; from 16 on both key events are refused. -/
theorem setKeySetsOneKey : Obligations.SetKeySetsOneKey := by
  refine fun s k p => ⟨fun hk => ?_, fun hk => ⟨if_pos hk, keyState_eq_getElem? hk s⟩,
    fun hk => ⟨if_neg (Nat.not_lt.2 hk), if_neg (Nat.not_lt.2 hk)⟩, rfl, rfl⟩
  refine ⟨_, setKeyEvent_of_lt hk p s, ?_, fun j hj hne => ?_, rfl⟩
  · rw [keyState_of_lt hk, keyDown_setKey, if_pos rfl]
  · rw [keyState_of_lt hj, keyState_of_lt hj, keyDown_setKey, if_neg (ofNat_nibble_ne hj hk hne)]

/-! The invariant along the events. -/

theorem StateInv.of_setKeyEvent {k : Nat} {p : Bool} (h : StateInv s)
    (ht : setKeyEvent k p s = .next t) : StateInv t := by
  unfold setKeyEvent at ht
  split_ifs at ht
  exact Host.Outcome.next.inj ht ▸ h.setKey _ p

theorem StateInv.of_keyStateEvent {k : Nat} (h : StateInv s)
    (ht : applyEvent (.keyState k) s = .next t) : StateInv t := by
  simp only [applyEvent] at ht
  split_ifs at ht
  exact Host.Outcome.next.inj ht ▸ h

/-- The invariant does not speak of the draws, so `step(r)` keeps it as the step does. -/
theorem StateInv.of_stepEvent {r : Byte} (h : StateInv s) (ht : stepEvent r s = .next t) :
    StateInv t := by
  unfold stepEvent at ht
  split at ht
  · next u hu =>
    have hu : StateInv u := StateInv.of_step (s := { s with draws := [r] }) h hu
    exact Host.Outcome.next.inj ht ▸ hu
  · cases ht
  · cases ht

/-- Settles O14: each of the seven events is a step, a reset, or an operation with a rule of its own. -/
theorem eventsKeepStateInv : Obligations.EventsKeepStateInv := by
  intro e s t h ht
  cases e with
  | step r => exact h.of_stepEvent ht
  | tick => exact Host.Outcome.next.inj ht ▸ (h.setDt _).setSt _
  | setKey k p => exact h.of_setKeyEvent ht
  | keyState k => exact h.of_keyStateEvent ht
  | getFramebuffer => exact Host.Outcome.next.inj ht ▸ h
  | loadProgram bytes => exact loadProgram_eq_next ht ▸ h.writeBytes _ _
  | reset => exact Host.Outcome.next.inj ht ▸ resetMeetsStateInv s.cfg h.1

/-- Settles O15, by induction on how the host brings the state about. -/
theorem reachableStatesMeetInv : Obligations.ReachableStatesMeetInv := by
  intro s h
  induction h with
  | reset c hc => exact resetMeetsStateInv c hc
  | event s t e _ ht ih => exact eventsKeepStateInv e s t ih ht

end Sys2Proof.Machine
end

section
/-!
PROOF. What each instruction may change (10_state.md R32's column "written by"): the frame of every
instruction that completes, and that one that does not has only raised.
-/
namespace Sys2Proof.Machine
variable {s t : State} {i : Instr}

/-- What an instruction that completes in `s` may change, beside `PC` (R32). -/
def mayChange (s : State) : Instr → MayChange
  | .cls => { fb := true }
  | .ret => { sp := true }
  | .call _ => { sp := true, slots := fun k => k == s.sp }
  | .rnd x _ => { v := onlyV x, draws := true }
  | .drw _ _ _ => { fb := true, v := onlyV vf }
  | .ldDtVx _ => { dt := true }
  | .ldStVx _ => { st := true }
  | .ldI _ | .ldF _ => { i := true }
  | .addI _ => { i := true, v := fun k => s.cfg.indexCarry == .on && k == vf }
  | .ldB _ => { bytes := bytesAt s.i.toNat 3 }
  | .stRegs x => { i := s.cfg.memInc == .xPlus1, bytes := bytesAt s.i.toNat (regCount x) }
  | .ldRegs x => { i := s.cfg.memInc == .xPlus1, v := fun k => decide (k.toNat ≤ x.toNat) }
  | j => { v := writesV s.cfg j }

/-! The frames of the composed effects. -/

theorem frame_consumeDraw_setV (s : State) (x : Nibble) (b : Byte) :
    Frame { v := onlyV x, draws := true } s (s.consumeDraw.setV x b) := by
  constructor
  case v => exact fun k hk => ((frame_setV s.consumeDraw x b).v k hk).trans (consumeDraw_getV s k)
  all_goals simp

theorem frame_setFb_setV (s : State) (f : Framebuffer) (x : Nibble) (b : Byte) :
    Frame { fb := true, v := onlyV x } s ((s.setFb f).setV x b) := by
  constructor
  case v => exact fun k hk => (frame_setV (s.setFb f) x b).v k hk
  all_goals simp

theorem frame_writeIndexFlag_setI (s : State) (n : Nat) (w : Word) :
    Frame { i := true, v := fun k => s.cfg.indexCarry == .on && k == vf } s
      ((s.writeIndexFlag n).setI w) := by
  constructor
  case v =>
    intro k hk
    rw [setI_getV, getV_writeIndexFlag, if_neg (by simpa using hk)]
  all_goals simp

/-- R190: without `X_PLUS_1` the index register stays. -/
theorem postIncI_i_kept (x : Nibble) (h : (s.cfg.memInc == .xPlus1) = false) :
    (s.postIncI x).i = s.i := by
  rw [postIncI_i, if_neg (by simpa using h)]

theorem frame_loadRegs_postIncI (s : State) (x : Nibble) :
    Frame { i := s.cfg.memInc == .xPlus1, v := fun k => decide (k.toNat ≤ x.toNat) } s
      ((s.loadRegs x).postIncI x) := by
  constructor
  case v =>
    intro k hk
    rw [postIncI_getV, getV_loadRegs, if_neg (by simpa using hk)]
  case i => exact fun hi => postIncI_i_kept (s := s.loadRegs x) x hi
  all_goals simp

theorem frame_writeBytes_postIncI (s : State) (x : Nibble) {a n : Nat} {bs : List Byte}
    (hn : bs.length = n) (h : a + n ≤ memSize) :
    Frame { i := s.cfg.memInc == .xPlus1, bytes := bytesAt a n } s
      ((s.writeBytes a bs).postIncI x) := by
  subst hn
  constructor
  case i => exact fun hi => postIncI_i_kept (s := s.writeBytes a bs) x hi
  case bytes => exact fun b hb => (postIncI_readByte ..).trans ((frame_writeBytes s a bs h).bytes b hb)
  all_goals simp

theorem frame_pushSlot (s : State) (w p : Word) :
    Frame { sp := true, slots := fun k => k == s.sp } s
      { s with stack := s.stack.set s.sp w, sp := s.sp + 1, pc := p } := by
  constructor
  case slots =>
    intro k hk
    exact List.getElem?_set_ne (Ne.symm (by simpa using hk))
  all_goals simp [State.getV, State.readByte]

theorem frame_popSlot (s : State) (n : Nat) (p : Word) :
    Frame { sp := true } s { s with pc := p, sp := n } := by
  constructor <;> simp [State.getV, State.readByte]

/-! A range that R64 allows ends within memory. -/

theorem inRange_fits {a : Word} {k : Nat} (h : InRange a k) (hk : k ≠ 0) : a.toNat + k ≤ memSize := by
  unfold memSize
  omega

theorem regsUpTo_length (s : State) (x : Nibble) : (s.regsUpTo x).length = regCount x := by
  rw [State.regsUpTo, List.length_take, Vector.length_toList, regCount]
  omega

/-- The answer of an instruction that does not raise keeps to the instruction's frame; a raise is only
by the six instructions of R262. -/
abbrev KeepsFrame (i : Instr) (s t : State) : Prop :=
  Frame (mayChange s i) s t ∨ canRaise i = true ∧ ∃ c w, t = s.raise c w

theorem guardRange_keepsFrame {k : Nat} {body : State} (ht : guardRange s k body = .next t)
    (hbody : InRange s.i k → Frame (mayChange s i) s body) (hraise : k ≠ 0 → canRaise i = true) :
    KeepsFrame i s t := by
  rcases guardRange_cases ht with ⟨hin, rfl⟩ | ⟨hout, rfl⟩
  · exact .inl (hbody hin)
  · exact .inr ⟨hraise fun hk => hout (.inl hk), _, _, rfl⟩

theorem execCall_keepsFrame {nnn : Addr} (ht : execCall nnn s = .next t) :
    KeepsFrame (.call nnn) s t := by
  rcases execCall_cases ht with ⟨-, rfl⟩ | ⟨-, -, rfl⟩
  · exact .inr ⟨rfl, _, _, rfl⟩
  · exact .inl (frame_pushSlot s _ _)

theorem execRet_keepsFrame (ht : execRet s = .next t) : KeepsFrame .ret s t := by
  rcases execRet_cases ht with ⟨-, rfl⟩ | ⟨-, w, -, rfl⟩
  · exact .inr ⟨rfl, _, _, rfl⟩
  · exact .inl (frame_popSlot s _ _)

theorem execLdVxK_keepsFrame {x : Nibble} (ht : execLdVxK x s = .next t) :
    KeepsFrame (.ldVxK x) s t := by
  rcases execLdVxK_cases ht with ⟨-, rfl⟩ | ⟨k, -, rfl⟩
  · exact .inl (frame_refl _ _)
  · exact .inl (frame_setV s x _).advance

theorem exec_keepsFrame (ht : exec i s = .next t) : KeepsFrame i s t := by
  cases i with
  | cls => exact .inl (Host.Outcome.next.inj ht ▸ (frame_setFb s _).advance)
  | ret => exact execRet_keepsFrame ht
  | call nnn => exact execCall_keepsFrame ht
  | jp | jpV0 => exact .inl (Host.Outcome.next.inj ht ▸ frame_setPc _ s _)
  | seImm | sneImm | seReg | sneReg | skp | sknp =>
    exact .inl (Host.Outcome.next.inj ht ▸ frame_skipWhen _ s _)
  | ldImm | addImm | ldReg | orReg | andReg | xorReg | ldVxDt =>
    exact .inl (Host.Outcome.next.inj ht ▸ (frame_setV s _ _).advance)
  | addReg | sub | shr | subn | shl =>
    exact .inl (Host.Outcome.next.inj ht ▸ (frame_writeFlagResult s _ _).advance)
  | rnd x nn => exact .inl (Host.Outcome.next.inj ht ▸ (frame_consumeDraw_setV s x _).advance)
  | ldI | ldF => exact .inl (Host.Outcome.next.inj ht ▸ (frame_setI s _).advance)
  | addI x => exact .inl (Host.Outcome.next.inj ht ▸ (frame_writeIndexFlag_setI s _ _).advance)
  | ldDtVx x => exact .inl (Host.Outcome.next.inj ht ▸ (frame_setDt s _).advance)
  | ldStVx x => exact .inl (Host.Outcome.next.inj ht ▸ (frame_setSt s _).advance)
  | ldVxK x => exact execLdVxK_keepsFrame ht
  | drw x y n =>
    refine guardRange_keepsFrame ht (fun _ => (frame_setFb_setV s _ vf _).advance) fun hn => ?_
    exact bne_iff_ne.2 fun h0 => hn (congrArg BitVec.toNat h0)
  | ldB x =>
    refine guardRange_keepsFrame ht (fun hin => ?_) fun _ => rfl
    have hfit : s.i.toNat + 3 ≤ memSize := inRange_fits hin (by decide)
    exact (frame_writeBytes s s.i.toNat (bcdDigits (s.getV x)) hfit).advance
  | stRegs x =>
    refine guardRange_keepsFrame ht (fun hin => ?_) fun _ => rfl
    have hfit := inRange_fits hin (Nat.succ_ne_zero _)
    exact (frame_writeBytes_postIncI s x (regsUpTo_length s x) hfit).advance
  | ldRegs x =>
    exact guardRange_keepsFrame ht (fun _ => (frame_loadRegs_postIncI s x).advance) fun _ => rfl

/-! Which instructions have an element of the state in their frame. -/

theorem mayChange_v (s : State) (i : Instr) : (mayChange s i).v = writesV s.cfg i := by
  cases i <;> rfl

theorem mayChange_dt (h : ∀ x, i ≠ .ldDtVx x) : (mayChange s i).dt = false := by
  cases i with
  | ldDtVx x => exact absurd rfl (h x)
  | _ => rfl

theorem mayChange_st (h : ∀ x, i ≠ .ldStVx x) : (mayChange s i).st = false := by
  cases i with
  | ldStVx x => exact absurd rfl (h x)
  | _ => rfl

theorem mayChange_fb (hcls : i ≠ .cls) (hdrw : ∀ x y n, i ≠ .drw x y n) :
    (mayChange s i).fb = false := by
  cases i with
  | cls => exact absurd rfl hcls
  | drw x y n => exact absurd rfl (hdrw x y n)
  | _ => rfl

theorem mayChange_bytes (hldB : ∀ x, i ≠ .ldB x) (hst : ∀ x, i ≠ .stRegs x) (a : Nat) :
    (mayChange s i).bytes a = false := by
  cases i with
  | ldB x => exact absurd rfl (hldB x)
  | stRegs x => exact absurd rfl (hst x)
  | _ => rfl

theorem mayChange_slots (h : ∀ nnn, i ≠ .call nnn) (k : Nat) : (mayChange s i).slots k = false := by
  cases i with
  | call nnn => exact absurd rfl (h nnn)
  | _ => rfl

theorem mayChange_sp (hcall : ∀ nnn, i ≠ .call nnn) (hret : i ≠ .ret) :
    (mayChange s i).sp = false := by
  cases i with
  | call nnn => exact absurd rfl (hcall nnn)
  | ret => exact absurd rfl hret
  | _ => rfl

theorem mayChange_i (hldI : ∀ nnn, i ≠ .ldI nnn) (haddI : ∀ x, i ≠ .addI x) (hldF : ∀ x, i ≠ .ldF x)
    (hinc : s.cfg.memInc = .unchanged ∨ (∀ x, i ≠ .stRegs x) ∧ ∀ x, i ≠ .ldRegs x) :
    (mayChange s i).i = false := by
  cases i with
  | ldI nnn => exact absurd rfl (hldI nnn)
  | addI x => exact absurd rfl (haddI x)
  | ldF x => exact absurd rfl (hldF x)
  | stRegs x =>
    have h : s.cfg.memInc = .unchanged := hinc.resolve_right fun h => h.1 x rfl
    simp [mayChange, h]
  | ldRegs x =>
    have h : s.cfg.memInc = .unchanged := hinc.resolve_right fun h => h.2 x rfl
    simp [mayChange, h]
  | _ => rfl

/-- Settles O18: a completed instruction keeps to its frame, and a raise writes the halt registers
only. -/
theorem onlyNamedInstructionsWrite : Obligations.OnlyNamedInstructionsWrite := by
  intro i s t ht
  rcases exec_keepsFrame ht with hf | ⟨hraise, c, w, rfl⟩
  · exact ⟨hf.key, hf.cfg, fun k hk => hf.v k (mayChange_v s i ▸ hk), fun _ => hf.halt,
      fun h => hf.dt (mayChange_dt h), fun h => hf.st (mayChange_st h),
      fun h h' => hf.fb (mayChange_fb h h'), fun h h' a => hf.bytes a (mayChange_bytes h h' a),
      fun h => List.ext_getElem? fun k => hf.slots k (mayChange_slots h k),
      fun h h' => hf.sp (mayChange_sp h h'),
      fun h1 h2 h3 h4 => hf.i (mayChange_i h1 h2 h3 h4)⟩
  · simp [hraise]

end Sys2Proof.Machine
end

section
/-!
PROOF. The random draw (R41, R124): no operation but the draw itself looks at the draw fields, so that
fetch and every instruction but `Cxnn` commute with a change of them.
-/
namespace Sys2Proof.Machine
variable {s : State} (ds : List Byte) (n : Nat)

/-- The same machine with other values in its two draw fields. -/
def State.setDraws (s : State) (ds : List Byte) (n : Nat) : State :=
  { s with draws := ds, drawCount := n }

/-! Each operation with a branch in it commutes with a change of the draws. -/

theorem skipWhen_setDraws (s : State) (b : Bool) :
    (s.setDraws ds n).skipWhen b = (s.skipWhen b).setDraws ds n := by
  cases b <;> rfl

theorem postIncI_setDraws (s : State) (x : Nibble) :
    (s.setDraws ds n).postIncI x = (s.postIncI x).setDraws ds n := by
  cases h : s.cfg.memInc <;> simp [State.postIncI, State.setDraws, State.setI, h]

theorem writeIndexFlag_setDraws (s : State) (sum : Nat) :
    (s.setDraws ds n).writeIndexFlag sum = (s.writeIndexFlag sum).setDraws ds n := by
  cases h : s.cfg.indexCarry <;> simp [State.writeIndexFlag, State.setDraws, State.setV, h]

theorem readBytes_setDraws (s : State) (a k : Nat) :
    (s.setDraws ds n).readBytes a k = s.readBytes a k := by
  induction k generalizing a with
  | zero => rfl
  | succ k ih => exact congrArg (s.readByte a :: ·) (ih (a + 1))

theorem drawSprite_setDraws (s : State) (x y k : Nibble) :
    (s.setDraws ds n).drawSprite x y k = s.drawSprite x y k :=
  congrArg (draw s.cfg.spriteEdge s.fb ((s.getV x).toNat % 64) ((s.getV y).toNat % 32))
    (readBytes_setDraws ds n s s.i.toNat k.toNat)

theorem guardRange_setDraws (s : State) {body body' : State} (k : Nat)
    (hbody : body' = body.setDraws ds n) :
    guardRange (s.setDraws ds n) k body' = withDraws ds n (guardRange s k body) := by
  subst hbody
  by_cases h : InRange s.i k
  · rw [guardRange_in h, guardRange_in (s := s.setDraws ds n) h]
    rfl
  · rw [guardRange_out h, guardRange_out (s := s.setDraws ds n) h]
    rfl

/-! The instructions. -/

theorem execCall_setDraws (s : State) (nnn : Addr) :
    execCall nnn (s.setDraws ds n) = withDraws ds n (execCall nnn s) := by
  by_cases hsp : s.sp = s.cfg.stackCapacity
  · rw [execCall_of_full nnn hsp, execCall_of_full (s := s.setDraws ds n) nnn hsp]
    rfl
  · rcases Nat.lt_or_ge s.sp s.stack.length with hslot | hslot
    · rw [execCall_of_slot nnn hsp hslot, execCall_of_slot (s := s.setDraws ds n) nnn hsp hslot]
      rfl
    · rw [execCall_of_no_slot nnn hsp hslot, execCall_of_no_slot (s := s.setDraws ds n) nnn hsp hslot]
      rfl

theorem execRet_setDraws (s : State) :
    execRet (s.setDraws ds n) = withDraws ds n (execRet s) := by
  by_cases hsp : s.sp = 0
  · rw [execRet_of_empty hsp, execRet_of_empty (s := s.setDraws ds n) hsp]
    rfl
  · rcases Nat.lt_or_ge (s.sp - 1) s.stack.length with hslot | hslot
    · have hw := List.getElem?_eq_getElem hslot
      rw [execRet_of_slot hsp hw, execRet_of_slot (s := s.setDraws ds n) hsp hw]
      rfl
    · rw [execRet_of_no_slot hsp hslot, execRet_of_no_slot (s := s.setDraws ds n) hsp hslot]
      rfl

theorem execLdVxK_setDraws (s : State) (x : Nibble) :
    execLdVxK x (s.setDraws ds n) = withDraws ds n (execLdVxK x s) := by
  have hkey : (s.setDraws ds n).lowestKey = s.lowestKey := rfl
  rw [execLdVxK, execLdVxK, hkey]
  cases s.lowestKey <;> rfl

theorem execDrw_setDraws (s : State) (x y k : Nibble) :
    execDrw x y k (s.setDraws ds n) = withDraws ds n (execDrw x y k s) := by
  rw [execDrw, drawSprite_setDraws]
  exact guardRange_setDraws ds n s k.toNat rfl

theorem execAddI_setDraws (s : State) (x : Nibble) :
    execAddI x (s.setDraws ds n) = withDraws ds n (execAddI x s) := by
  rw [execAddI, writeIndexFlag_setDraws]
  rfl

theorem execStRegs_setDraws (s : State) (x : Nibble) :
    execStRegs x (s.setDraws ds n) = withDraws ds n (execStRegs x s) :=
  guardRange_setDraws ds n s (regCount x)
    (congrArg State.advance (postIncI_setDraws ds n (s.writeBytes s.i.toNat (s.regsUpTo x)) x))

theorem execLdRegs_setDraws (s : State) (x : Nibble) :
    execLdRegs x (s.setDraws ds n) = withDraws ds n (execLdRegs x s) :=
  guardRange_setDraws ds n s (regCount x)
    (congrArg State.advance (postIncI_setDraws ds n (s.loadRegs x) x))

theorem exec_setDraws {i : Instr} (h : ∀ x nn, i ≠ .rnd x nn) (s : State) :
    exec i (s.setDraws ds n) = withDraws ds n (exec i s) := by
  cases i with
  | rnd x nn => exact absurd rfl (h x nn)
  | call nnn => exact execCall_setDraws ds n s nnn
  | ret => exact execRet_setDraws ds n s
  | seImm | sneImm | seReg | sneReg | skp | sknp =>
    exact congrArg Host.Outcome.next (skipWhen_setDraws ds n s _)
  | addI x => exact execAddI_setDraws ds n s x
  | ldVxK x => exact execLdVxK_setDraws ds n s x
  | drw x y k => exact execDrw_setDraws ds n s x y k
  | ldB x => exact guardRange_setDraws ds n s 3 rfl
  | stRegs x => exact execStRegs_setDraws ds n s x
  | ldRegs x => exact execLdRegs_setDraws ds n s x
  | _ => rfl

/-! The step. -/

/-- What fetch settles, with other draws in the state it may have ended in. -/
def Fetched.setDraws (ds : List Byte) (n : Nat) : Fetched → Fetched
  | .done t => .done (t.setDraws ds n)
  | .run i => .run i

theorem fetch_setDraws (s : State) : (s.setDraws ds n).fetch = s.fetch.setDraws ds n := by
  have hword : (s.setDraws ds n).fetchWord = s.fetchWord := rfl
  have hhalt : (s.setDraws ds n).haltCause = s.haltCause := rfl
  have hpc : (s.setDraws ds n).pc = s.pc := rfl
  unfold State.fetch
  rw [hword, hhalt, hpc]
  split_ifs
  · rfl
  · rfl
  · cases decode s.fetchWord <;> rfl

/-- Where no `Cxnn` is fetched the step commutes with a change of the draws. -/
theorem step_setDraws (h : ∀ x nn, s.fetch ≠ .run (.rnd x nn)) :
    step (s.setDraws ds n) = withDraws ds n (step s) := by
  have hfetch := fetch_setDraws ds n s
  cases hf : s.fetch with
  | done t =>
    rw [hf] at hfetch
    rw [step_of_done hf, step_of_done hfetch]
    rfl
  | run i =>
    rw [hf] at hfetch
    rw [step_of_run hf, step_of_run hfetch]
    exact exec_setDraws ds n (fun x nn hi => h x nn (hi ▸ hf)) s

/-- Where `Cxnn` is fetched the step takes the first draw and no other. -/
theorem step_setDraws_of_rnd {x : Nibble} {nn : Byte} (h : s.fetch = .run (.rnd x nn)) (r : Byte) :
    step (s.setDraws (r :: ds) n) = .next ((s.setV x (r &&& nn)).advance.setDraws ds n) := by
  have hfetch := fetch_setDraws (r :: ds) n s
  rw [h] at hfetch
  rw [step_of_run hfetch]
  rfl

theorem withDraws_withDraws (es : List Byte) (m : Nat) (r : Result) :
    withDraws ds n (withDraws es m r) = withDraws ds n r := by
  cases r <;> rfl

theorem stepEvent_of_not_rnd (h : ∀ x nn, s.fetch ≠ .run (.rnd x nn)) (r : Byte) :
    stepEvent r s = withDraws s.draws s.drawCount (step s) := by
  rw [stepEvent, show step { s with draws := [r] } = _ from step_setDraws [r] s.drawCount h]
  cases step s <;> rfl

theorem stepEvent_of_rnd {x : Nibble} {nn : Byte} (h : s.fetch = .run (.rnd x nn)) (r : Byte) :
    stepEvent r s = .next (s.setV x (r &&& nn)).advance := by
  rw [stepEvent, show step { s with draws := [r] } = _ from step_setDraws_of_rnd [] s.drawCount h r]
  rfl

/-- The event step(r) is the step with `r` before the environment's draws, which it keeps. -/
theorem stepEvent_eq_withDraws (s : State) (r : Byte) :
    stepEvent r s = withDraws s.draws s.drawCount (step (s.setDraws (r :: s.draws) s.drawCount)) := by
  by_cases h : ∃ x nn, s.fetch = .run (.rnd x nn)
  · obtain ⟨x, nn, h⟩ := h
    rw [stepEvent_of_rnd h, step_setDraws_of_rnd _ _ h]
    rfl
  · have h : ∀ x nn, s.fetch ≠ .run (.rnd x nn) := fun x nn hf => h ⟨x, nn, hf⟩
    rw [stepEvent_of_not_rnd h, step_setDraws _ _ h, withDraws_withDraws]

/-- Settles O42: a fetched `Cxnn` takes the first draw; every other step commutes with a change of the
draws, so that putting `r` in and the old draws back is no change. -/
theorem stepEventSuppliesRandomByte : Obligations.StepEventSuppliesRandomByte := by
  refine fun s r => ⟨stepEvent_eq_withDraws s r, fun h => ?_, fun x nn h => ?_⟩
  · exact (stepEvent_of_not_rnd h r).trans (step_setDraws s.draws s.drawCount h).symm
  · exact ⟨_, stepEvent_of_rnd h r, getV_setV_self s x _, rfl, (frame_setV s x _).advance⟩

end Sys2Proof.Machine
end

section
/-!
PROOF. The fetch and the data accesses at the edge of memory (20_memory.md R64, R65, R67, R74): the word
that is fetched, what a store leaves to read back, and the halt that an access out of range raises.
-/
namespace Sys2Proof.Machine
variable {s : State} {i : Instr}

/-! The fetched word is big-endian (R67). -/

theorem wordOfBytes_toNat (hi lo : Byte) : (wordOfBytes hi lo).toNat = hi.toNat * 256 + lo.toNat := by
  rw [wordOfBytes, BitVec.toNat_append, ← Nat.shiftLeft_add_eq_or_of_lt lo.isLt, Nat.shiftLeft_eq]

theorem fetchWord_toNat (s : State) :
    s.fetchWord.toNat =
      (s.readByte s.pc.toNat).toNat * 256 + (s.readByte (s.pc.toNat + 1)).toNat :=
  wordOfBytes_toNat _ _

theorem fetchWord_eq_ofNat (s : State) :
    s.fetchWord = BitVec.ofNat 16
      ((s.readByte s.pc.toNat).toNat * 256 + (s.readByte (s.pc.toNat + 1)).toNat) := by
  rw [← fetchWord_toNat, BitVec.ofNat_toNat, BitVec.setWidth_eq]

/-! Reading back the registers that `Fx55` has stored (R187). -/

theorem getElem_regsUpTo (s : State) (x k : Nibble) (hk : k.toNat < (s.regsUpTo x).length) :
    (s.regsUpTo x)[k.toNat] = s.getV k := by
  simp only [State.regsUpTo, State.getV, List.getElem_take, Vector.getElem_toList]

theorem readByte_writeBytes_regsUpTo (s : State) {x : Nibble} {a : Nat}
    (hfit : a + regCount x ≤ memSize) (k : Nibble) (hk : k.toNat ≤ x.toNat) :
    (s.writeBytes a (s.regsUpTo x)).readByte (a + k.toNat) = s.getV k := by
  have hlen := regsUpTo_length s x
  have hlt : k.toNat < regCount x := Nat.lt_succ_of_le hk
  rw [readByte_writeBytes _ _ _ _ (hlen ▸ hfit), dif_pos (by omega)]
  simp only [Nat.add_sub_cancel_left, getElem_regsUpTo]

/-- Settles O53: the store leaves V0 and V1 in the two bytes that `PC + 2` names, and nothing after it
writes them. -/
theorem storedWordIsFetchedNext : Obligations.StoredWordIsFetchedNext := by
  intro s x hx hin hi
  have hrange : InRange s.i (regCount x) := .inr (by unfold regCount; omega)
  have hfit := inRange_fits hrange (Nat.succ_ne_zero _)
  have h0 := readByte_writeBytes_regsUpTo s hfit 0 (Nat.zero_le _)
  have h1 := readByte_writeBytes_regsUpTo s hfit 1 (by bv_omega)
  refine ⟨_, guardRange_in hrange, ?_⟩
  simp only [fetchWord_toNat, advance_pc, postIncI_pc, writeBytes_pc, advance_readByte, postIncI_readByte,
    ← hi]
  rw [← h0, ← h1]
  rfl

/-! The step at a running core, by the fetch check of R65. -/

theorem fetch_of_decode (hrun : s.haltCause = .running) (hpc : s.pc.toNat ≤ 4094)
    (hdec : decode s.fetchWord = some i) : s.fetch = .run i := by
  rw [State.fetch, if_neg (not_not.2 hrun), if_neg (Nat.not_lt.2 hpc), hdec]

theorem fetch_out_of_range (hrun : s.haltCause = .running) (hpc : 4094 < s.pc.toNat) :
    s.fetch = .done (s.raise .outOfBoundsAddress (firstBad s.pc)) := by
  rw [State.fetch, if_neg (not_not.2 hrun), if_pos hpc]

/-- Settles O6: the two bytes are the fetched word, and past the two checks of fetch the step is its
instruction. -/
theorem stepRunsDecodedInstruction : Obligations.StepRunsDecodedInstruction := by
  intro s i hrun hpc hdec
  rw [← fetchWord_eq_ofNat] at hdec
  exact step_of_run (fetch_of_decode hrun hpc hdec)

/-! The diagnostic of an access out of range (R243). -/

theorem raise_firstBad (s : State) (c : HaltCause) (a : Word) :
    s.raise c (firstBad a) = s.haltedWith c (BitVec.ofNat 16 (max a.toNat 4096)) := by
  rw [← firstBad_toNat, BitVec.ofNat_toNat, BitVec.setWidth_eq]
  rfl

/-- Settles O8: a fetch out of range ends the step in the raise. -/
theorem fetchOutOfRangeRaises : Obligations.FetchOutOfRangeRaises := by
  intro s hrun hpc
  rw [step_of_done (fetch_out_of_range hrun hpc), raise_firstBad]

theorem guardRange_out_haltedWith {body : State} {k : Nat} (hk : k ≠ 0)
    (hout : 4095 < s.i.toNat + k - 1) :
    guardRange s k body =
      .next (s.haltedWith .outOfBoundsAddress (BitVec.ofNat 16 (max s.i.toNat 4096))) := by
  rw [guardRange_out (not_or.2 ⟨hk, Nat.not_le.2 hout⟩), raise_firstBad]

/-- Settles O51: each of the four instructions is guarded over the bytes it accesses, 3, `x + 1` or
`n` of them. -/
theorem dataOutOfRangeRaises : Obligations.DataOutOfRangeRaises := by
  rintro s t x y n rfl
  refine ⟨fun hout => ?_, fun hout => ⟨?_, ?_⟩, fun hn hout => ?_⟩
  · exact guardRange_out_haltedWith (by decide) hout
  · exact guardRange_out_haltedWith (Nat.succ_ne_zero _) hout
  · exact guardRange_out_haltedWith (Nat.succ_ne_zero _) hout
  · exact guardRange_out_haltedWith (fun h0 => hn (BitVec.eq_of_toNat_eq h0)) hout

end Sys2Proof.Machine
end

section
/-!
PROOF. The encoding (30_encoding.md R91 to R105): decode and encode are inverse to each other, the words
they speak of are those of the opcode map, and no two rows of the map overlap.
-/
namespace Sys2Proof
variable {ir : Word} {c x y n : Nibble} {nn : Byte} {i : Instr} {name : String}

/-- Settles O1: the fields of an encoded word are the operands, the class selects the second-level
decoder, and the fixed sub-operation selects the instruction there. -/
theorem decodeOfEncodeIsIdentity : Obligations.DecodeOfEncodeIsIdentity := by
  intro i
  cases i with
  | cls | ret => rfl
  | jp | call | ldI | jpV0 => simp [encode, decode]
  | seImm | sneImm | ldImm | addImm | rnd => simp [encode, decode]
  | seReg | sneReg | drw => simp [encode, decode]
  | ldReg | orReg | andReg | xorReg | addReg | sub | shr | subn | shl => simp [encode, decode, decode8]
  | skp | sknp => simp [encode, decode, decodeE]
  | ldVxDt | ldDtVx | ldStVx | addI | ldVxK | ldF | ldB | stRegs | ldRegs => simp [encode, decode, decodeF]

/-! Encoding what was decoded: a second-level decoder's instruction is the encoding of the fields it was
read from (R94, R98). -/

theorem encXYN_congr_n {k : Nibble} (hn : n.toNat = k.toNat) : encXYN c x y k = encXYN c x y n := by
  rw [BitVec.eq_of_toNat_eq hn]

theorem encode_of_decode0 (h : decode0 ir = some i) : encode i = ir := by
  unfold decode0 at h
  split_ifs at h with h0 h1 <;> cases h
  · exact h0.symm
  · exact h1.symm

theorem encode_of_decode8 (h : decode8 x y n = some i) : encode i = encXYN 0x8 x y n := by
  unfold decode8 at h
  split at h <;> cases h <;> exact encXYN_congr_n ‹_›

theorem encode_of_decodeE (h : decodeE x nn = some i) : encode i = encXNN 0xE x nn := by
  unfold decodeE at h
  split_ifs at h with hnn hnn <;> cases h <;> rw [hnn] <;> rfl

theorem encode_of_decodeF (h : decodeF x nn = some i) : encode i = encXNN 0xF x nn := by
  unfold decodeF at h
  split_ifs at h with hnn hnn hnn hnn hnn hnn hnn hnn hnn <;> cases h <;> rw [hnn] <;> rfl

/-! A word of a known class, from its other fields (R92). -/

theorem encNNN_of_class (hc : (fieldClass ir).toNat = c.toNat) : encNNN c (fieldNNN ir) = ir :=
  BitVec.eq_of_toNat_eq hc ▸ encNNN_fields ir

theorem encXNN_of_class (hc : (fieldClass ir).toNat = c.toNat) :
    encXNN c (fieldX ir) (fieldNN ir) = ir :=
  BitVec.eq_of_toNat_eq hc ▸ encXNN_fields ir

theorem encXYN_of_class (hc : (fieldClass ir).toNat = c.toNat) :
    encXYN c (fieldX ir) (fieldY ir) (fieldN ir) = ir :=
  BitVec.eq_of_toNat_eq hc ▸ encXYN_fields ir

theorem encXNN_of_class_nn (hc : (fieldClass ir).toNat = c.toNat) (hnn : fieldNN ir = nn) :
    encXNN c (fieldX ir) nn = ir :=
  hnn ▸ encXNN_of_class hc

theorem encXYN_of_class_n (hc : (fieldClass ir).toNat = c.toNat) (hn : fieldN ir = n) :
    encXYN c (fieldX ir) (fieldY ir) n = ir :=
  hn ▸ encXYN_of_class hc

/-- Settles O2: in each of the sixteen classes the instruction's fields are those of the word. -/
theorem encodeOfDecodeIsIdentity : Obligations.EncodeOfDecodeIsIdentity := by
  intro ir i h
  unfold decode at h
  split at h
  next => exact encode_of_decode0 h
  next hc => cases h; exact encNNN_of_class hc
  next hc => cases h; exact encNNN_of_class hc
  next hc => cases h; exact encXNN_of_class hc
  next hc => cases h; exact encXNN_of_class hc
  next hc => split_ifs at h with hn; cases h; exact encXYN_of_class_n hc hn
  next hc => cases h; exact encXNN_of_class hc
  next hc => cases h; exact encXNN_of_class hc
  next hc => exact (encode_of_decode8 h).trans (encXYN_of_class hc)
  next hc => split_ifs at h with hn; cases h; exact encXYN_of_class_n hc hn
  next hc => cases h; exact encNNN_of_class hc
  next hc => cases h; exact encNNN_of_class hc
  next hc => cases h; exact encXNN_of_class hc
  next hc => cases h; exact encXYN_of_class hc
  next hc => exact (encode_of_decodeE h).trans (encXNN_of_class hc)
  next hc => exact (encode_of_decodeF h).trans (encXNN_of_class hc)
  next => cases h

/-! What a match under each mask says of a word's fields (R96). -/

theorem fieldClass_of_mask (h : ir &&& 0xF000 = encNNN c 0) : (fieldClass ir).toNat = c.toNat := by
  rw [← encNNN_fields ir, encNNN_mask] at h
  simpa using congrArg (fun w => (fieldClass w).toNat) h

theorem fieldClass_fieldN_of_maskK (h : ir &&& 0xF00F = encXYN c 0 0 n) :
    (fieldClass ir).toNat = c.toNat ∧ fieldN ir = n := by
  rw [← encXYN_fields ir, encXYN_maskK] at h
  exact ⟨by simpa using congrArg (fun w => (fieldClass w).toNat) h, by simpa using congrArg fieldN h⟩

theorem fieldClass_fieldNN_of_maskKK (h : ir &&& 0xF0FF = encXNN c 0 nn) :
    (fieldClass ir).toNat = c.toNat ∧ fieldNN ir = nn := by
  rw [← encXNN_fields ir, encXNN_maskKK] at h
  exact ⟨by simpa using congrArg (fun w => (fieldClass w).toNat) h, by simpa using congrArg fieldNN h⟩

/-! The words that match a row are encodings: its mask frees exactly the operands of its format. The two
facts about the row's constructor hold by computation. -/

/-- Every word that matches the row is the encoding of an instruction of the row's mnemonic. -/
def OpcodeRow.MatchesEncodings (r : OpcodeRow) : Prop :=
  ∀ ir : Word, ir &&& r.mask = r.bits → ∃ i : Instr, r.mnemonic = i.mnemonic ∧ encode i = ir

theorem matchesEncodings_fixed (i : Instr) :
    OpcodeRow.MatchesEncodings ⟨i.mnemonic, encode i, 0xFFFF⟩ := fun ir h =>
  ⟨i, rfl, h.symm.trans (BitVec.and_allOnes (x := ir))⟩

theorem matchesEncodings_nnn (c : Nibble) (f : Addr → Instr)
    (hname : ∀ nnn, name = (f nnn).mnemonic := by intros; rfl)
    (henc : ∀ nnn, encode (f nnn) = encNNN c nnn := by intros; rfl) :
    OpcodeRow.MatchesEncodings ⟨name, encNNN c 0, 0xF000⟩ := fun ir h =>
  ⟨f (fieldNNN ir), hname _, (henc _).trans (encNNN_of_class (fieldClass_of_mask h))⟩

theorem matchesEncodings_xnn (c : Nibble) (f : Nibble → Byte → Instr)
    (hname : ∀ x nn, name = (f x nn).mnemonic := by intros; rfl)
    (henc : ∀ x nn, encode (f x nn) = encXNN c x nn := by intros; rfl) :
    OpcodeRow.MatchesEncodings ⟨name, encNNN c 0, 0xF000⟩ := fun ir h =>
  ⟨f (fieldX ir) (fieldNN ir), hname _ _, (henc _ _).trans (encXNN_of_class (fieldClass_of_mask h))⟩

theorem matchesEncodings_xyn (c : Nibble) (f : Nibble → Nibble → Nibble → Instr)
    (hname : ∀ x y n, name = (f x y n).mnemonic := by intros; rfl)
    (henc : ∀ x y n, encode (f x y n) = encXYN c x y n := by intros; rfl) :
    OpcodeRow.MatchesEncodings ⟨name, encNNN c 0, 0xF000⟩ := fun ir h =>
  ⟨f (fieldX ir) (fieldY ir) (fieldN ir), hname _ _ _,
    (henc _ _ _).trans (encXYN_of_class (fieldClass_of_mask h))⟩

theorem matchesEncodings_xyk (c k : Nibble) (f : Nibble → Nibble → Instr)
    (hname : ∀ x y, name = (f x y).mnemonic := by intros; rfl)
    (henc : ∀ x y, encode (f x y) = encXYN c x y k := by intros; rfl) :
    OpcodeRow.MatchesEncodings ⟨name, encXYN c 0 0 k, 0xF00F⟩ := fun ir h =>
  have ⟨hc, hk⟩ := fieldClass_fieldN_of_maskK h
  ⟨f (fieldX ir) (fieldY ir), hname _ _, (henc _ _).trans (encXYN_of_class_n hc hk)⟩

theorem matchesEncodings_xkk (c : Nibble) (kk : Byte) (f : Nibble → Instr)
    (hname : ∀ x, name = (f x).mnemonic := by intros; rfl)
    (henc : ∀ x, encode (f x) = encXNN c x kk := by intros; rfl) :
    OpcodeRow.MatchesEncodings ⟨name, encXNN c 0 kk, 0xF0FF⟩ := fun ir h =>
  have ⟨hc, hkk⟩ := fieldClass_fieldNN_of_maskKK h
  ⟨f (fieldX ir), hname _, (henc _).trans (encXNN_of_class_nn hc hkk)⟩

theorem control_matchesEncodings : ∀ r ∈ opcodeRowsControl, r.MatchesEncodings := by
  simp only [opcodeRowsControl, List.forall_mem_cons]
  exact ⟨matchesEncodings_fixed .cls, matchesEncodings_fixed .ret,
    matchesEncodings_nnn 0x1 .jp, matchesEncodings_nnn 0x2 .call,
    matchesEncodings_xnn 0x3 .seImm, matchesEncodings_xnn 0x4 .sneImm,
    matchesEncodings_xyk 0x5 0x0 .seReg, matchesEncodings_xyk 0x9 0x0 .sneReg, List.forall_mem_nil _⟩

theorem alu_matchesEncodings : ∀ r ∈ opcodeRowsAlu, r.MatchesEncodings := by
  simp only [opcodeRowsAlu, List.forall_mem_cons]
  exact ⟨matchesEncodings_xnn 0x6 .ldImm, matchesEncodings_xnn 0x7 .addImm,
    matchesEncodings_xyk 0x8 0x0 .ldReg, matchesEncodings_xyk 0x8 0x1 .orReg,
    matchesEncodings_xyk 0x8 0x2 .andReg, matchesEncodings_xyk 0x8 0x3 .xorReg,
    matchesEncodings_xyk 0x8 0x4 .addReg, matchesEncodings_xyk 0x8 0x5 .sub,
    matchesEncodings_xyk 0x8 0x6 .shr, matchesEncodings_xyk 0x8 0x7 .subn,
    matchesEncodings_xyk 0x8 0xE .shl, List.forall_mem_nil _⟩

theorem middle_matchesEncodings : ∀ r ∈ opcodeRowsMiddle, r.MatchesEncodings := by
  simp only [opcodeRowsMiddle, List.forall_mem_cons]
  exact ⟨matchesEncodings_nnn 0xA .ldI, matchesEncodings_nnn 0xB .jpV0, matchesEncodings_xnn 0xC .rnd,
    matchesEncodings_xyn 0xD .drw, matchesEncodings_xkk 0xE 0x9E .skp,
    matchesEncodings_xkk 0xE 0xA1 .sknp, List.forall_mem_nil _⟩

theorem classF_matchesEncodings : ∀ r ∈ opcodeRowsF, r.MatchesEncodings := by
  simp only [opcodeRowsF, List.forall_mem_cons]
  exact ⟨matchesEncodings_xkk 0xF 0x07 .ldVxDt, matchesEncodings_xkk 0xF 0x15 .ldDtVx,
    matchesEncodings_xkk 0xF 0x18 .ldStVx, matchesEncodings_xkk 0xF 0x1E .addI,
    matchesEncodings_xkk 0xF 0x0A .ldVxK, matchesEncodings_xkk 0xF 0x29 .ldF,
    matchesEncodings_xkk 0xF 0x33 .ldB, matchesEncodings_xkk 0xF 0x55 .stRegs,
    matchesEncodings_xkk 0xF 0x65 .ldRegs, List.forall_mem_nil _⟩

theorem opcodeTable_matchesEncodings : ∀ r ∈ opcodeTable, r.MatchesEncodings := by
  simp only [opcodeTable, List.forall_mem_append]
  exact ⟨⟨⟨control_matchesEncodings, alu_matchesEncodings⟩, middle_matchesEncodings⟩,
    classF_matchesEncodings⟩

/-! The encodings match the rows. -/

open Laws.EncodesRow in
theorem encodesRow (i : Instr) : Statement i := by
  cases i
  exacts [cls, ret, jp _, call _, seImm _ _, sneImm _ _, seReg _ _, sneReg _ _, ldImm _ _, addImm _ _,
    ldReg _ _, orReg _ _, andReg _ _, xorReg _ _, addReg _ _, sub _ _, shr _ _, subn _ _, shl _ _,
    ldI _, jpV0 _, rnd _ _, drw _ _ _, skp _, sknp _, ldVxDt _, ldDtVx _, ldStVx _, addI _, ldVxK _,
    ldF _, ldB _, stRegs _, ldRegs _]

theorem row_of_decode (h : decode ir = some i) :
    ∃ r ∈ opcodeTable, r.mnemonic = i.mnemonic ∧ ir &&& r.mask = r.bits := by
  rw [← encodeOfDecodeIsIdentity ir i h]
  exact encodesRow i

/-- Settles O3: a decoded word is an encoding, which matches its row; a word that matches a row is an
encoding, which decodes. -/
theorem decodeAcceptsExactlyTheTable : Obligations.DecodeAcceptsExactlyTheTable := by
  refine ⟨fun ir => ⟨fun hsome => ?_, fun ⟨r, hr, hmatch⟩ => ?_⟩, fun _ _ => row_of_decode⟩
  · obtain ⟨i, hi⟩ := Option.isSome_iff_exists.1 hsome
    obtain ⟨r, hr, -, hmatch⟩ := row_of_decode hi
    exact ⟨r, hr, hmatch⟩
  · obtain ⟨i, -, rfl⟩ := opcodeTable_matchesEncodings r hr ir hmatch
    exact Option.isSome_of_eq_some (decodeOfEncodeIsIdentity i)

theorem agreeing_rows_eq : ∀ r ∈ opcodeTable, ∀ q ∈ opcodeTable,
    r.bits &&& q.mask = q.bits &&& r.mask → r = q := by
  decide

/-- Settles O4: two rows that one word matches agree on the bits that both masks keep. -/
theorem noWordMatchesTwoRows : Obligations.NoWordMatchesTwoRows := by
  intro ir r hr q hq hir hiq
  apply agreeing_rows_eq r hr q hq
  rw [← hir, ← hiq]
  ac_rfl

/-- Settles O5: the decoder evaluates on each of the nine words. -/
theorem sampleWordsDecode : Obligations.SampleWordsDecode := by
  unfold Obligations.SampleWordsDecode
  decide

end Sys2Proof
end

section
/-!
PROOF. The step at a word that is no instruction (30_encoding.md R99, 40_step_cycle.md R120).
-/
namespace Sys2Proof.Machine
variable {s : State}

theorem fetch_of_unknown (hrun : s.haltCause = .running) (hpc : s.pc.toNat ≤ 4094)
    (hdec : decode s.fetchWord = none) : s.fetch = .done (s.raise .unknownOpcode s.fetchWord) := by
  rw [State.fetch, if_neg (not_not.2 hrun), if_neg (Nat.not_lt.2 hpc), hdec]

/-- Settles O9: past the two checks of fetch an unknown word ends the step in the raise. -/
theorem unknownWordRaises : Obligations.UnknownWordRaises := fun _ hrun hpc hdec =>
  step_of_done (fetch_of_unknown hrun hpc hdec)

end Sys2Proof.Machine
end

section
/-!
PROOF. The step cycle (40_step_cycle.md R123 to R125): a fatal step is precise, no instruction but `Cxnn`
depends on the draw, and at the self-jump that ends a run only the timers and the keys still change.
-/
namespace Sys2Proof.Machine
variable {s t u : State} {a : Addr}

/-! Fatal steps (R123, R244). -/

/-- A running core that an instruction leaves halted has taken a raise: a completed instruction has no
halt register in its frame. -/
theorem eq_raise_of_exec_halts {i : Instr} (hrun : s.haltCause = .running) (ht : exec i s = .next t)
    (hhalt : t.halted) : ∃ c w, t = s.raise c w := by
  rcases exec_keepsFrame ht with hframe | ⟨-, hraise⟩
  · exact absurd (hframe.halt.1.trans hrun) hhalt
  · exact hraise

/-- The same of the step: fetch and decode can only raise, too. -/
theorem eq_raise_of_step_halts (hrun : s.haltCause = .running) (ht : step s = .next t)
    (hhalt : t.halted) : ∃ c w, t = s.raise c w := by
  rcases step_cases ht with ⟨hnot, -⟩ | ⟨-, -, hraise⟩ | ⟨-, -, -, hraise⟩ | ⟨i, -, -, -, hexec⟩
  · exact absurd hrun hnot
  · exact ⟨_, _, hraise⟩
  · exact ⟨_, _, hraise⟩
  · exact eq_raise_of_exec_halts hrun hexec hhalt

/-- Settles O10: every step that halts a running core is a raise. -/
theorem fatalStepIsPrecise : Obligations.FatalStepIsPrecise := by
  intro s t hrun ht hhalt
  obtain ⟨c, w, rfl⟩ := eq_raise_of_step_halts hrun ht hhalt
  exact ⟨rfl, rfl⟩

/-! The draw (R124). -/

/-- Settles O43: every instruction but `Cxnn` commutes with a change of the draw fields. -/
theorem onlyRandomReadsTheDraw : Obligations.OnlyRandomReadsTheDraw :=
  fun _ s ds n h => exec_setDraws ds n h s

/-! The self-jump (R125, R130): a step there jumps to where `PC` already is. -/

theorem step_atSelfJump (h : s.AtSelfJump a) : step s = .next s := by
  rw [step_of_run (fetch_atSelfJump h)]
  obtain ⟨-, hpc, -, -⟩ := h
  exact congrArg (fun w => Host.Outcome.next (s.setPc w)) hpc.symm

theorem stepEvent_atSelfJump (h : s.AtSelfJump a) (r : Byte) : stepEvent r s = .next s := by
  have hfetch : ∀ x nn, s.fetch ≠ .run (.rnd x nn) := fun x nn => by simp [fetch_atSelfJump h]
  rw [stepEvent_of_not_rnd hfetch, step_atSelfJump h]
  rfl

/-! What the host can still change there (R42, R43). -/

/-- From `s` to `t` nothing changed but the timers and the keys. -/
abbrev OnlyTimersAndKeys (s t : State) : Prop :=
  t = { s with dt := t.dt, st := t.st, key := t.key }

theorem OnlyTimersAndKeys.trans (hst : OnlyTimersAndKeys s t) (htu : OnlyTimersAndKeys t u) :
    OnlyTimersAndKeys s u :=
  Eq.trans htu (congrArg (fun v : State => { v with dt := u.dt, st := u.st, key := u.key }) hst)

/-- A self-jump does not look at the timers or the keys. -/
theorem atSelfJump_of_onlyTimersAndKeys (h : s.AtSelfJump a) (hst : OnlyTimersAndKeys s t) :
    t.AtSelfJump a := by
  rw [hst]
  exact h

theorem setKeyEvent_eq_next {k : Nat} {p : Bool} (ht : setKeyEvent k p s = .next t) :
    t = s.setKey (BitVec.ofNat 4 k) p := by
  unfold setKeyEvent at ht
  split_ifs at ht
  exact (Host.Outcome.next.inj ht).symm

theorem keyStateEvent_eq_next {k : Nat} (ht : applyEvent (.keyState k) s = .next t) : t = s := by
  simp only [applyEvent] at ht
  split_ifs at ht
  exact (Host.Outcome.next.inj ht).symm

/-- At a self-jump a step changes nothing, a tick the timers and a key event the keys. -/
theorem onlyTimersAndKeys_of_event {e : Event} (h : s.AtSelfJump a)
    (he : e ≠ .reset ∧ ∀ bytes, e ≠ .loadProgram bytes) (ht : applyEvent e s = .next t) :
    OnlyTimersAndKeys s t := by
  obtain ⟨hreset, hload⟩ := he
  cases e with
  | step r =>
    obtain rfl := Host.Outcome.next.inj ((stepEvent_atSelfJump h r).symm.trans ht)
    rfl
  | tick =>
    obtain rfl := Host.Outcome.next.inj ht
    rfl
  | setKey k p =>
    obtain rfl := setKeyEvent_eq_next ht
    rfl
  | keyState k =>
    obtain rfl := keyStateEvent_eq_next ht
    rfl
  | getFramebuffer =>
    obtain rfl := Host.Outcome.next.inj ht
    rfl
  | loadProgram bytes => exact absurd rfl (hload bytes)
  | reset => exact absurd rfl hreset

/-- The same of any number of events, since the machine is at the self-jump before each of them. -/
theorem onlyTimersAndKeys_of_events {fs : List Event} (h : s.AtSelfJump a)
    (hfs : ∀ e ∈ fs, e ≠ .reset ∧ ∀ bytes, e ≠ .loadProgram bytes)
    (hu : applyEvents fs s = .next u) : OnlyTimersAndKeys s u := by
  induction fs generalizing s with
  | nil =>
    obtain rfl := Host.Outcome.next.inj hu
    rfl
  | cons e fs ih =>
    obtain ⟨he, hfs⟩ := List.forall_mem_cons.1 hfs
    obtain ⟨t, ht, hu⟩ := applyEvents_cons.1 hu
    have hst := onlyTimersAndKeys_of_event h he ht
    exact hst.trans (ih (atSelfJump_of_onlyTimersAndKeys h hst) hfs hu)

/-- A run that goes on past a self-jump at `a` does not end there: it has one end, its first. -/
theorem EndsRun.eq_nil_of_append {es fs : List Event} (hes : EndsRun a es s t)
    (h : EndsRun a (es ++ fs) s u) : fs = [] := by
  obtain ⟨hrun, hjump, -⟩ := hes
  obtain ⟨-, -, hfirst⟩ := h
  by_contra hne
  have hlt : es.length < (es ++ fs).length := by
    rw [List.length_append]
    exact Nat.lt_add_of_pos_right (List.length_pos_iff.2 hne)
  exact hfirst es.length t hlt (by rw [List.take_left, hrun]) hjump

/-- Settles O60: the step at a self-jump is the jump to itself, so that only ticks and key events change
the state, and the first state at the self-jump ends the run. -/
theorem endOfRunIsKept : Obligations.EndOfRunIsKept := by
  intro a es s t hend
  have ⟨_, hjump, _⟩ := hend
  refine ⟨hjump.1, step_atSelfJump hjump, stepEvent_atSelfJump hjump,
    fun fs u hu => ⟨fun hfs => ?_, hend.eq_nil_of_append⟩⟩
  have htu := onlyTimersAndKeys_of_events hjump hfs hu
  exact ⟨atSelfJump_of_onlyTimersAndKeys hjump htu, htu⟩

end Sys2Proof.Machine
end

section
/-!
PROOF. The control-transfer instructions (41_control_flow.md R130 to R142): jumps, skips, calls and
returns.
-/
namespace Sys2Proof.Machine

/-! The jumps (R130, R133). -/

theorem zextAddr_toNat (nnn : Addr) : (zextAddr nnn).toNat = nnn.toNat :=
  BitVec.toNat_setWidth_of_le (by decide)

/-- R133: two operands this short cannot overflow a word, so the sum stays unreduced. -/
theorem zextByte_add_zextAddr_toNat (b : Byte) (nnn : Addr) :
    (zextByte b + zextAddr nnn).toNat = b.toNat + nnn.toNat := by
  rw [BitVec.toNat_add, zextAddr_toNat, zextByte, BitVec.toNat_setWidth]
  omega

theorem setPc_of_toNat_eq (s : State) {w : Word} (h : s.pc.toNat = w.toNat) : s.setPc w = s :=
  congrArg s.setPc (BitVec.eq_of_toNat_eq h).symm

/-- Settles O26: the jump writes `PC` alone, and at its own address the value already there. -/
theorem jumpSetsPc : Obligations.JumpSetsPc := fun s nnn =>
  ⟨s.setPc (zextAddr nnn), rfl, zextAddr_toNat nnn, frame_setPc _ s _,
    fun hself => setPc_of_toNat_eq s (hself.trans (zextAddr_toNat nnn).symm)⟩

/-- Settles O32: `Bnnn` writes the sum to `PC` alone. -/
theorem jumpV0AddsOffset : Obligations.JumpV0AddsOffset := fun s nnn =>
  ⟨s.setPc (zextByte (s.getV 0) + zextAddr nnn), rfl, zextByte_add_zextAddr_toNat _ nnn,
    frame_setPc _ s _⟩

/-! The skips (R138). -/

theorem skipWhen_beq_pc (s : State) (a b : Byte) :
    (s.skipWhen (a == b)).pc = if a = b then s.pc + 4 else s.pc + 2 := by
  simp only [skipWhen_pc, beq_iff_eq]

theorem skipWhen_bne_pc (s : State) (a b : Byte) :
    (s.skipWhen (a != b)).pc = if a = b then s.pc + 2 else s.pc + 4 := by
  simp only [skipWhen_pc, bne_iff_ne, ite_not]

/-- Settles O33: `3xnn` and `4xnn` end in the skip on `V[x] = nn` and on `V[x] ≠ nn`. -/
theorem skipsOnImmediate : Obligations.SkipsOnImmediate := fun s x nn =>
  ⟨⟨s.skipWhen (s.getV x == nn), rfl, skipWhen_beq_pc s _ _, frame_skipWhen _ s _⟩,
    ⟨s.skipWhen (s.getV x != nn), rfl, skipWhen_bne_pc s _ _, frame_skipWhen _ s _⟩⟩

/-- Settles O34: `5xy0` and `9xy0` end in the skip on `V[x] = V[y]` and on `V[x] ≠ V[y]`. -/
theorem skipsOnRegisters : Obligations.SkipsOnRegisters := fun s x y =>
  ⟨⟨s.skipWhen (s.getV x == s.getV y), rfl, skipWhen_beq_pc s _ _, frame_skipWhen _ s _⟩,
    ⟨s.skipWhen (s.getV x != s.getV y), rfl, skipWhen_bne_pc s _ _, frame_skipWhen _ s _⟩⟩

/-! Calls and returns (R131, R132, R141). -/

/-- Settles O27: with room on the stack slot `SP` exists, and the call writes that slot, `SP` and `PC`. -/
theorem callPushesReturnAddress : Obligations.CallPushesReturnAddress := by
  intro s nnn hroom hlen
  have hslot : s.sp < s.stack.length := hlen.symm ▸ hroom
  exact ⟨_, execCall_of_slot nnn hroom.ne hslot, zextAddr_toNat nnn, rfl,
    List.getElem?_set_self hslot, frame_pushSlot s _ _⟩

/-- Settles O28: the return writes `PC` and `SP`; the slot it reads is only read. -/
theorem returnPopsIntoPc : Obligations.ReturnPopsIntoPc := fun s _ hsp htop =>
  ⟨_, execRet_of_slot hsp htop, rfl, rfl, frame_popSlot s _ _⟩

/-- Settles O29: the check of `SP` comes before any effect, so all that happens is the raise. -/
theorem stackMisuseRaises : Obligations.StackMisuseRaises :=
  ⟨fun _ nnn hfull => execCall_of_full nnn hfull, fun _ hempty => execRet_of_empty hempty⟩

/-- Settles O31: the call leaves `PC + 2` in the top slot (O27), and the return, which finds that slot as
the call left it, pops it (O28). -/
theorem returnFollowsCall : Obligations.ReturnFollowsCall := by
  intro s t u nnn hroom hlen hcall hdepth hentries
  obtain ⟨t', hcall', -, hsp, hslot, -⟩ := callPushesReturnAddress s nnn hroom hlen
  obtain rfl : t = t' := Host.Outcome.next.inj (hcall.symm.trans hcall')
  have husp : u.sp = s.sp + 1 := hdepth.trans hsp
  have htop : u.stack[u.sp - 1]? = some (s.pc + 2) := by
    rw [husp, Nat.add_sub_cancel, hentries s.sp (hsp ▸ Nat.lt_succ_self _), hslot]
  obtain ⟨w, hret, hwpc, hwsp, -⟩ := returnPopsIntoPc u _ (husp ▸ Nat.succ_ne_zero _) htop
  exact ⟨w, hret, hwpc, by rw [hwsp, husp, Nat.add_sub_cancel]⟩

end Sys2Proof.Machine
end

section
/-!
PROOF. The register loads, the 8-bit ALU and the random instruction (42_alu.md R150 to R166): what the one
or two register writes that end each of them leave, and the value that is written.
-/
namespace Sys2Proof.Machine
variable {s : State} {i : Instr} {x : Nibble}

/-! The two ends that these instructions share. -/

theorem Completes.imp {P Q : State → Prop} (h : Completes i s P) (hPQ : ∀ t, P t → Q t) :
    Completes i s Q := by
  obtain ⟨t, ht, hP⟩ := h
  exact ⟨t, ht, hPQ t hP⟩

/-- An instruction that ends in the write of `V[x]` alone. -/
theorem completes_of_setV {b : Byte} (h : exec i s = .next (s.setV x b).advance) :
    Completes i s fun t => t.getV x = b ∧ t.pc = s.pc + 2 ∧ Frame { v := onlyV x } s t :=
  ⟨_, h, getV_setV_self s x b, rfl, (frame_setV s x b).advance⟩

/-- An instruction that ends in the write of a flag and a result: with `x = 15` the result stands (R150). -/
theorem completes_of_writeFlagResult {p : Byte × Byte}
    (h : exec i s = .next (s.writeFlagResult x p).advance) :
    Completes i s fun t => t.getV x = p.2 ∧ (x ≠ vf → t.getV vf = p.1) ∧
      t.pc = s.pc + 2 ∧ Frame { v := onlyVAndVF x } s t := by
  refine ⟨_, h, ?_, fun hx => ?_, rfl, (frame_writeFlagResult s x p).advance⟩
  · exact (getV_writeFlagResult s x x p).trans (if_pos rfl)
  · exact (getV_writeFlagResult s x vf p).trans ((if_neg hx.symm).trans (if_pos rfl))

/-! The pairs of flag and result (R157 to R161) in natural numbers. -/

theorem flagByte_decide (c : Prop) [Decidable c] : flagByte (decide c) = if c then 1 else 0 := by
  simp only [flagByte, decide_eq_true_eq]

theorem flagByte_toNat (b : Bool) : (flagByte b).toNat = b.toNat := by
  cases b <;> rfl

theorem addFlags_result_toNat (a b : Byte) : (addFlags a b).2.toNat = (a.toNat + b.toNat) % 256 :=
  (BitVec.toNat_ofNat _ 8).trans (Nat.mod_mod _ 256)

theorem subFlags_result_toNat (a b : Byte) :
    (subFlags a b).2.toNat = (256 + a.toNat - b.toNat) % 256 := by
  have hsub : (subFlags a b).2.toNat = (256 - b.toNat + a.toNat) % 256 := BitVec.toNat_sub a b
  omega

theorem shrFlags_result_toNat (a : Byte) : (shrFlags a).2.toNat = a.toNat / 2 := by
  rw [shrFlags, BitVec.toNat_ushiftRight, Nat.shiftRight_one]

theorem shrFlags_flag_toNat (a : Byte) : (shrFlags a).1.toNat = a.toNat % 2 := by
  rw [shrFlags, flagByte_toNat, BitVec.getLsbD, Nat.toNat_testBit, Nat.pow_zero, Nat.div_one]

theorem shlFlags_result_toNat (a : Byte) : (shlFlags a).2.toNat = a.toNat * 2 % 256 := by
  rw [shlFlags, BitVec.toNat_shiftLeft, Nat.shiftLeft_eq]

/-- Bit 7 is the top bit of a byte, so what is above it is nothing. -/
theorem shlFlags_flag_toNat (a : Byte) : (shlFlags a).1.toNat = a.toNat / 128 := by
  have hlt : a.toNat < 256 := a.isLt
  rw [shlFlags, flagByte_toNat, BitVec.getLsbD, Nat.toNat_testBit]
  omega

theorem shiftOperand_eq (s : State) (x y : Nibble) :
    s.shiftOperand x y = if s.cfg.shiftSrc = .vx then s.getV x else s.getV y := by
  cases h : s.cfg.shiftSrc <;> simp [State.shiftOperand, h]

/-! The instructions with a flag (R157 to R161, R165). -/

/-- Settles O38: both values are the pair of `addFlags`. -/
theorem addRegisterSetsCarry : Obligations.AddRegisterSetsCarry := fun s x y =>
  Completes.imp (completes_of_writeFlagResult rfl) fun _ ⟨hres, hflag, hrest⟩ =>
    ⟨hres ▸ addFlags_result_toNat (s.getV x) (s.getV y),
      fun hx => (hflag hx).trans (flagByte_decide _), hrest⟩

/-- Settles O39: both values are the pair of `subFlags`, of the operands in the instruction's order. -/
theorem subtractSetsNoBorrow : Obligations.SubtractSetsNoBorrow := fun s x y =>
  ⟨Completes.imp (completes_of_writeFlagResult rfl) fun _ ⟨hres, hflag, hrest⟩ =>
      ⟨hres ▸ subFlags_result_toNat (s.getV x) (s.getV y),
        fun hx => (hflag hx).trans (flagByte_decide _), hrest⟩,
    Completes.imp (completes_of_writeFlagResult rfl) fun _ ⟨hres, hflag, hrest⟩ =>
      ⟨hres ▸ subFlags_result_toNat (s.getV y) (s.getV x),
        fun hx => (hflag hx).trans (flagByte_decide _), hrest⟩⟩

/-- Settles O40: the source is the shift operand, and both values are the pair of its shift. -/
theorem shiftsMoveOneBit : Obligations.ShiftsMoveOneBit := by
  intro s x y src hsrc
  obtain rfl : src = s.shiftOperand x y := hsrc.trans (shiftOperand_eq s x y).symm
  constructor
  · exact Completes.imp (completes_of_writeFlagResult rfl) fun _ ⟨hres, hflag, hrest⟩ =>
      ⟨hres ▸ shrFlags_result_toNat _, fun hx => hflag hx ▸ shrFlags_flag_toNat _, hrest⟩
  · exact Completes.imp (completes_of_writeFlagResult rfl) fun _ ⟨hres, hflag, hrest⟩ =>
      ⟨hres ▸ shlFlags_result_toNat _, fun hx => hflag hx ▸ shlFlags_flag_toNat _, hrest⟩

/-- Settles O44: the add (O38) keeps `V[y]`, which is neither `V[x]` nor VF, so that the subtraction (O39)
takes the same value off again. -/
theorem subtractUndoesAdd : Obligations.SubtractUndoesAdd := by
  intro s x y _ hy hxy
  refine Completes.imp (addRegisterSetsCarry s x y) fun t ⟨hadd, _, _, hframe⟩ =>
    Completes.imp (subtractSetsNoBorrow t x y).1 fun u ⟨hsub, _⟩ => ?_
  have hkept : t.getV y = s.getV y := hframe.v y (by simp [onlyVAndVF, hy, hxy.symm])
  have hlt : (s.getV x).toNat < 256 := (s.getV x).isLt
  have hlt' : (s.getV y).toNat < 256 := (s.getV y).isLt
  rw [hkept, hadd] at hsub
  exact BitVec.eq_of_toNat_eq (by omega)

/-! The instructions without a flag (R151 to R156). -/

/-- Settles O35: one register write, of `nn`. -/
theorem loadImmediateSetsRegister : Obligations.LoadImmediateSetsRegister := fun _ _ _ =>
  completes_of_setV rfl

theorem completes_addImm (s : State) (x : Nibble) (nn : Byte) : Completes (.addImm x nn) s fun t =>
    (t.getV x).toNat = ((s.getV x).toNat + nn.toNat) % 256 ∧ t.pc = s.pc + 2 ∧
      Frame { v := onlyV x } s t :=
  Completes.imp (completes_of_setV rfl) fun _ ⟨hres, hrest⟩ =>
    ⟨hres ▸ BitVec.toNat_add (s.getV x) nn, hrest⟩

/-- Settles O36: the second add starts from the sum that the first one left, already reduced. -/
theorem addImmediateWraps : Obligations.AddImmediateWraps := fun s x nn mm =>
  Completes.imp (completes_addImm s x nn) fun t ⟨hfirst, hpc, hframe⟩ =>
    ⟨hfirst, hpc, hframe, Completes.imp (completes_addImm t x mm) fun _ ⟨hsecond, _⟩ => by
      rw [hsecond, hfirst, Nat.mod_add_mod]⟩

/-- Settles O37: one register write each, of a value that reads the operands before it. -/
theorem copyAndLogicSetRegister : Obligations.CopyAndLogicSetRegister := fun _ _ _ =>
  ⟨completes_of_setV rfl, completes_of_setV rfl, completes_of_setV rfl, completes_of_setV rfl⟩

/-! The random instruction (R124, R162). -/

theorem nextDraw_nil (h : s.draws = []) : s.nextDraw = Config.randomByte s.drawCount := by
  simp [State.nextDraw, h]

theorem consumeDraw_of_cons {r : Byte} {rs : List Byte} (h : s.draws = r :: rs) :
    s.consumeDraw = { s with draws := rs } := by
  simp [State.consumeDraw, h]

theorem consumeDraw_of_nil (h : s.draws = []) :
    s.consumeDraw = { s with drawCount := s.drawCount + 1 } := by
  simp [State.consumeDraw, h]

/-- Settles O41: `V[x]` is the next draw masked with `nn`, and the draw is taken off the chosen ones where
there is one, else counted. -/
theorem randomIsMaskedDraw : Obligations.RandomIsMaskedDraw := by
  intro s x nn
  have hres : (s.consumeDraw.setV x (s.nextDraw &&& nn)).advance.getV x = s.nextDraw &&& nn :=
    getV_setV_self s.consumeDraw x _
  refine ⟨_, rfl, fun r rs hdraws => ?_, fun hdraws => ?_, fun k hk => ?_,
    congrArg (· + 2) (consumeDraw_pc s), (frame_consumeDraw_setV s x _).advance⟩
  · rw [hres, nextDraw_cons hdraws, consumeDraw_of_cons hdraws]
    exact ⟨rfl, rfl, rfl⟩
  · rw [hres, nextDraw_nil hdraws, consumeDraw_of_nil hdraws]
    exact ⟨rfl, hdraws, rfl⟩
  · rw [hres, BitVec.getLsbD_and, hk, Bool.and_false]

end Sys2Proof.Machine
end

section
/-!
PROOF. The index register and the memory instructions (43_index_memory.md R180 to R192): the value that `I`
takes, and what the stores and loads move between the registers and memory.
-/
namespace Sys2Proof.Machine
variable {s : State} {x : Nibble}

/-! The instructions that write `I` (R183 to R185). -/

/-- Settles O45: one write of `I`, of the immediate zero-extended. -/
theorem loadIndexImmediate : Obligations.LoadIndexImmediate := fun s nnn =>
  ⟨_, rfl, zextAddr_toNat nnn, rfl, (frame_setI s _).advance⟩

theorem add_zextByte_toNat (w : Word) (b : Byte) :
    (w + zextByte b).toNat = (w.toNat + b.toNat) % 65536 := by
  rw [BitVec.toNat_add, zextByte, BitVec.toNat_setWidth_of_le (by decide)]

theorem getV_vf_writeIndexFlag (n : Nat) (h : s.cfg.indexCarry = .on) :
    (s.writeIndexFlag n).getV vf = if 4095 < n then 1 else 0 := by
  rw [getV_writeIndexFlag, if_pos ⟨h, rfl⟩, flagByte_decide]

/-- Settles O46: the flag and the sum both read `V[x]` and `I` as they were before the step. -/
theorem addToIndexWraps : Obligations.AddToIndexWraps := fun s x =>
  ⟨_, rfl, add_zextByte_toNat s.i (s.getV x), getV_vf_writeIndexFlag _,
    congrArg (· + 2) (writeIndexFlag_pc s _), (frame_writeIndexFlag_setI s _ _).advance⟩

theorem lowNibble_toNat (b : Byte) : (lowNibble b).toNat = b.toNat % 16 :=
  BitVec.extractLsb'_toNat 0 4 b

/-- R185: a legal `FONT_BASE` leaves every glyph address below 512, so the sum is not reduced. -/
theorem glyphAddress_toNat {c : Config} (hc : c.wf) (d : Nibble) :
    (glyphAddress c d).toNat = c.fontBase + 5 * d.toNat := by
  have hbase : c.fontBase + 80 ≤ 512 := hc.2
  have hdigit : d.toNat < 16 := d.isLt
  exact (BitVec.toNat_ofNat _ 16).trans (Nat.mod_eq_of_lt (by omega))

/-- Settles O47: one write of `I`, of the glyph address of the low digit. -/
theorem glyphAddressOfDigit : Obligations.GlyphAddressOfDigit := fun s x hc =>
  ⟨_, rfl, lowNibble_toNat (s.getV x) ▸ glyphAddress_toNat hc _, rfl, (frame_setI s _).advance⟩

/-! The decimal digits (R186). -/

theorem readByte_writeBytes_add {a k : Nat} {bs : List Byte} (s : State)
    (hfit : a + bs.length ≤ memSize) (hk : k < bs.length) :
    (s.writeBytes a bs).readByte (a + k) = bs[k] := by
  rw [readByte_writeBytes s a bs _ hfit, dif_pos (by omega)]
  simp only [Nat.add_sub_cancel_left]

/-- A stored decimal digit reads back as its value. -/
theorem readByte_bcdDigits_toNat {k n : Nat} {b : Byte} (hin : s.i.toNat + 2 ≤ 4095) (hk : k < 3)
    (hdigit : (bcdDigits b)[k] = BitVec.ofNat 8 n) (hn : n < 256) :
    ((s.writeBytes s.i.toNat (bcdDigits b)).readByte (s.i.toNat + k)).toNat = n := by
  have hfit : s.i.toNat + (bcdDigits b).length ≤ memSize := Nat.succ_le_succ hin
  rw [readByte_writeBytes_add s hfit hk, hdigit, BitVec.toNat_ofNat, Nat.mod_eq_of_lt hn]

/-- Settles O48: the three bytes read back as the digits stored at `I`, each of which fits in a byte. -/
theorem bcdStoresThreeDigits : Obligations.BcdStoresThreeDigits := by
  intro s x hin
  have hlt : (s.getV x).toNat < 256 := (s.getV x).isLt
  refine ⟨_, guardRange_in (.inr hin), ?_, ?_, ?_, rfl,
    (frame_writeBytes s s.i.toNat (bcdDigits (s.getV x)) (Nat.succ_le_succ hin)).advance⟩
  · exact readByte_bcdDigits_toNat (k := 0) hin (by decide) rfl (by omega)
  · exact readByte_bcdDigits_toNat (k := 1) hin (by decide) rfl (by omega)
  · exact readByte_bcdDigits_toNat (k := 2) hin (by decide) rfl (by omega)

/-! The register range (R187, R188, R190). -/

theorem inRange_regCount (h : s.i.toNat + x.toNat ≤ 4095) : InRange s.i (regCount x) := .inr h

/-- In range the post-increment does not wrap. -/
theorem postIncI_i_toNat (h : s.i.toNat + x.toNat ≤ 4095) (hinc : s.cfg.memInc = .xPlus1) :
    (s.postIncI x).i.toNat = s.i.toNat + x.toNat + 1 := by
  rw [postIncI_i, if_pos hinc]
  bv_omega

/-- Settles O49: the stored registers read back, and the increment and `PC` are written after them. -/
theorem storeRegistersToMemory : Obligations.StoreRegistersToMemory := by
  intro s x hin
  have hfit : s.i.toNat + regCount x ≤ memSize :=
    inRange_fits (inRange_regCount hin) (Nat.succ_ne_zero _)
  refine ⟨_, guardRange_in (inRange_regCount hin), fun k hk => ?_, fun hinc => ?_, ?_,
    (frame_writeBytes_postIncI s x (regsUpTo_length s x) hfit).advance⟩
  · rw [advance_readByte, postIncI_readByte, readByte_writeBytes_regsUpTo s hfit k hk]
  · exact postIncI_i_toNat (s := s.writeBytes s.i.toNat (s.regsUpTo x)) hin hinc
  · rw [advance_pc, postIncI_pc, writeBytes_pc]

/-- Settles O50: the registers are read from memory at `I` as it was, before the increment. -/
theorem loadRegistersFromMemory : Obligations.LoadRegistersFromMemory := by
  intro s x hin
  refine ⟨_, guardRange_in (inRange_regCount hin), fun k hk => ?_, fun hinc => ?_, ?_,
    (frame_loadRegs_postIncI s x).advance⟩
  · rw [advance_getV, postIncI_getV, getV_loadRegs, if_pos hk]
  · exact postIncI_i_toNat (s := s.loadRegs x) hin hinc
  · rw [advance_pc, postIncI_pc, loadRegs_pc]

/-- Settles O52: under `NONE` neither transfer moves `I` off `nnn`, so the load (O50) reads the byte that the
store (O49) wrote, and the store finds V0 as the load of `I` (O45) left it. -/
theorem storeThenLoadReturnsV0 : Obligations.StoreThenLoadReturnsV0 := by
  intro s nnn hnone
  refine Completes.imp (loadIndexImmediate s nnn) fun t ⟨hti, _, hst⟩ => ?_
  have htin : t.i.toNat + (0 : Nibble).toNat ≤ 4095 := hti ▸ Nat.le_of_lt_succ nnn.isLt
  refine Completes.imp (storeRegistersToMemory t 0 htin) fun u ⟨hstored, _, _, htu⟩ => ?_
  have hui : u.i = t.i := htu.i (by rw [hst.cfg, hnone]; rfl)
  refine Completes.imp (loadRegistersFromMemory u 0 (hui ▸ htin)) fun w ⟨hloaded, _, _, huw⟩ => ?_
  have hwi : w.i = u.i := huw.i (by rw [htu.cfg, hst.cfg, hnone]; rfl)
  have hbyte : u.readByte nnn.toNat = s.getV 0 :=
    calc u.readByte nnn.toNat = t.getV 0 := hti ▸ hstored 0 le_rfl
      _ = s.getV 0 := hst.v 0 rfl
  refine ⟨?_, (huw.bytes _ rfl).trans hbyte, by rw [hwi, hui, hti]⟩
  calc w.getV 0 = u.readByte u.i.toNat := hloaded 0 le_rfl
    _ = s.getV 0 := by rw [hui, hti, hbyte]

end Sys2Proof.Machine
end

section
/-!
PROOF. The display instructions (44_display.md R200 to R211): the row-by-row compositor of R202 inverts a
set of pixels, loop by loop, since no two bits of a sprite have one target.
-/
namespace Sys2Proof.Machine
variable {s t : State} {x y n : Nibble}

/-- Settles O54: the one write before `PC` is that of the zero display. -/
theorem clearScreenClearsEveryPixel : Obligations.ClearScreenClearsEveryPixel := fun s =>
  ⟨_, rfl, pixel_clear, rfl, (frame_setFb s _).advance⟩

/-! A parallel update of the display, and how two of them follow each other. -/

/-- From `a` to `b` the pixels in `P` are inverted at once and the others kept, and a pixel of `P` that was
set in `a` is added to the collision. -/
structure Inverts (P : Set (Fin 64 × Fin 32)) (a b : Framebuffer × Bool) : Prop where
  covered : ∀ q ∈ P, b.1.pixel q.1 q.2 = !a.1.pixel q.1 q.2
  kept : ∀ q ∉ P, b.1.pixel q.1 q.2 = a.1.pixel q.1 q.2
  collides : b.2 = true ↔ a.2 = true ∨ ∃ q ∈ P, a.1.pixel q.1 q.2 = true

theorem inverts_empty (a : Framebuffer × Bool) : Inverts ∅ a a :=
  ⟨fun _ hq => absurd hq id, fun _ _ => rfl, by simp⟩

/-- Two updates of disjoint sets are the update of their union: the second one finds its own pixels as they
were before the first. -/
theorem Inverts.union {P Q : Set (Fin 64 × Fin 32)} {a b c : Framebuffer × Bool} (hP : Inverts P a b)
    (hQ : Inverts Q b c) (hPQ : Disjoint P Q) : Inverts (P ∪ Q) a c := by
  have hnotP : ∀ q ∈ Q, q ∉ P := fun _ hq hq' => Set.disjoint_left.1 hPQ hq' hq
  have hsame : ∀ q ∈ Q, b.1.pixel q.1 q.2 = a.1.pixel q.1 q.2 := fun q hq => hP.kept q (hnotP q hq)
  constructor
  case covered =>
    rintro q (hq | hq)
    · rw [hQ.kept q fun hq' => hnotP q hq' hq, hP.covered q hq]
    · rw [hQ.covered q hq, hsame q hq]
  case kept =>
    intro q hq
    rw [hQ.kept q fun h => hq (.inr h), hP.kept q fun h => hq (.inl h)]
  case collides =>
    have hset : (∃ q ∈ Q, b.1.pixel q.1 q.2 = true) ↔ ∃ q ∈ Q, a.1.pixel q.1 q.2 = true :=
      exists_congr fun q => and_congr_right fun hq => by rw [hsame q hq]
    rw [hQ.collides, hP.collides, hset, or_assoc, ← exists_or]
    simp only [Set.mem_union, or_and_right]

/-! The target of a sprite bit (R202, R203). -/

theorem spriteTarget_clip_eq_some {px py : Nat} {q : Fin 64 × Fin 32} :
    spriteTarget .clip px py = some q ↔ q.1.val = px ∧ q.2.val = py := by
  simp only [spriteTarget, Option.dite_none_right_eq_some, Option.some.injEq, Prod.ext_iff, Fin.ext_iff]
  constructor
  · rintro ⟨-, hx, hy⟩
    exact ⟨hx.symm, hy.symm⟩
  · rintro ⟨rfl, rfl⟩
    exact ⟨⟨q.1.isLt, q.2.isLt⟩, rfl, rfl⟩

theorem spriteTarget_wrap_eq_some {px py : Nat} {q : Fin 64 × Fin 32} :
    spriteTarget .wrap px py = some q ↔ q.1.val = px % 64 ∧ q.2.val = py % 32 := by
  simp only [spriteTarget, Option.some.injEq, Prod.ext_iff, Fin.ext_iff, Fin.val_ofNat, eq_comm]

/-- Under both policies a target keeps its coordinates modulo the screen. -/
theorem spriteTarget_mod {e : SpriteEdge} {px py : Nat} {q : Fin 64 × Fin 32}
    (h : spriteTarget e px py = some q) : q.1.val = px % 64 ∧ q.2.val = py % 32 := by
  cases e with
  | clip =>
    obtain ⟨hx, hy⟩ := spriteTarget_clip_eq_some.1 h
    omega
  | wrap => exact spriteTarget_wrap_eq_some.1 h

/-! Each loop of the compositor inverts the pixels under the bits that it goes through. -/

/-- The pixel under one sprite bit at column `px`, row `py`, if it is a 1 and not discarded. -/
def bitPixels (e : SpriteEdge) (bit : Bool) (px py : Nat) : Set (Fin 64 × Fin 32) :=
  {q | bit = true ∧ spriteTarget e px py = some q}

/-- The pixels under the bits `7 - k` downward, `todo` of them, of one sprite row. -/
def colsPixels (e : SpriteEdge) (x0 y : Nat) (row : Byte) (k todo : Nat) : Set (Fin 64 × Fin 32) :=
  {q | ∃ c < todo, q ∈ bitPixels e (row.getLsbD (7 - (k + c))) (x0 + (k + c)) y}

/-- The pixels under sprite rows from display row `y` downward. -/
def rowsPixels (e : SpriteEdge) (x0 y : Nat) (rows : List Byte) : Set (Fin 64 × Fin 32) :=
  {q | ∃ k, ∃ hk : k < rows.length, q ∈ colsPixels e x0 (y + k) rows[k] 0 8}

theorem drawBit_inverts (e : SpriteEdge) (bit : Bool) (px py : Nat) (acc : Framebuffer × Bool) :
    Inverts (bitPixels e bit px py) acc (drawBit e bit px py acc) := by
  constructor
  case covered => exact fun q hq => (pixel_drawBit e bit px py acc q.1 q.2).trans (if_pos hq)
  case kept => exact fun q hq => (pixel_drawBit e bit px py acc q.1 q.2).trans (if_neg hq)
  case collides =>
    rw [collides_drawBit]
    simp [bitPixels, and_assoc]

theorem colsPixels_succ (e : SpriteEdge) (x0 y : Nat) (row : Byte) (k todo : Nat) :
    colsPixels e x0 y row k (todo + 1) =
      bitPixels e (row.getLsbD (7 - k)) (x0 + k) y ∪ colsPixels e x0 y row (k + 1) todo := by
  ext q
  simp only [colsPixels, Set.mem_union, Set.mem_ofPred_eq]
  rw [← Nat.or_exists_add_one]
  simp [Nat.add_right_comm k 1, Nat.add_assoc]

/-- Two bits of one row lie less than 64 columns apart. -/
theorem disjoint_bitPixels_colsPixels (e : SpriteEdge) (bit : Bool) (x0 y : Nat) (row : Byte)
    {k todo : Nat} (hk : todo < 64) :
    Disjoint (bitPixels e bit (x0 + k) y) (colsPixels e x0 y row (k + 1) todo) := by
  refine Set.disjoint_left.2 ?_
  rintro q ⟨-, hq⟩ ⟨c, hc, -, hq'⟩
  have hcol := (spriteTarget_mod hq).1
  have hcol' := (spriteTarget_mod hq').1
  omega

theorem drawCols_inverts (e : SpriteEdge) (x0 y : Nat) (row : Byte) {todo : Nat} (htodo : todo ≤ 64)
    (k : Nat) (acc : Framebuffer × Bool) :
    Inverts (colsPixels e x0 y row k todo) acc (drawCols e x0 y row k todo acc) := by
  induction todo generalizing k acc with
  | zero => simpa [colsPixels, drawCols] using inverts_empty acc
  | succ todo ih =>
    rw [colsPixels_succ]
    exact (drawBit_inverts e _ (x0 + k) y acc).union (ih (by omega) (k + 1) _)
      (disjoint_bitPixels_colsPixels e _ x0 y row htodo)

theorem rowsPixels_cons (e : SpriteEdge) (x0 y : Nat) (row : Byte) (rows : List Byte) :
    rowsPixels e x0 y (row :: rows) = colsPixels e x0 y row 0 8 ∪ rowsPixels e x0 (y + 1) rows := by
  ext q
  simp only [rowsPixels, Set.mem_union, Set.mem_ofPred_eq]
  rw [← Nat.or_exists_add_one]
  simp [Nat.add_right_comm y 1, Nat.add_assoc]

/-- Two rows of one sprite lie less than 32 rows of the display apart. -/
theorem disjoint_colsPixels_rowsPixels (e : SpriteEdge) (x0 y : Nat) (row : Byte) {rows : List Byte}
    (hlen : rows.length < 32) :
    Disjoint (colsPixels e x0 y row 0 8) (rowsPixels e x0 (y + 1) rows) := by
  refine Set.disjoint_left.2 ?_
  rintro q ⟨_, -, -, hq⟩ ⟨k, hk, _, -, -, hq'⟩
  have hrow := (spriteTarget_mod hq).2
  have hrow' := (spriteTarget_mod hq').2
  omega

theorem drawRows_inverts (e : SpriteEdge) (x0 : Nat) {rows : List Byte} (hlen : rows.length ≤ 32)
    (y : Nat) (acc : Framebuffer × Bool) :
    Inverts (rowsPixels e x0 y rows) acc (drawRows e x0 y rows acc) := by
  induction rows generalizing y acc with
  | nil => simpa [rowsPixels, drawRows] using inverts_empty acc
  | cons row rows ih =>
    rw [rowsPixels_cons]
    exact (drawCols_inverts e x0 y row (by decide) 0 acc).union (ih (Nat.le_of_succ_le hlen) (y + 1) _)
      (disjoint_colsPixels_rowsPixels e x0 y row hlen)

/-! The draw of `Dxyn` (R206, R208). -/

/-- The pixels under the rows that the compositor is given are those that the sprite in memory covers. -/
theorem rowsPixels_spriteRows (s : State) (x y n : Nibble) :
    rowsPixels s.cfg.spriteEdge ((s.getV x).toNat % 64) ((s.getV y).toNat % 32) (s.spriteRows n) =
      {q | SpriteCovers s x y n q.1 q.2} := by
  ext q
  cases hedge : s.cfg.spriteEdge <;>
    simp [rowsPixels, colsPixels, bitPixels, SpriteCovers, State.spriteRows, hedge, readBytes_length,
      getElem_readBytes, spriteTarget_clip_eq_some, spriteTarget_wrap_eq_some]

theorem drawSprite_inverts (s : State) (x y n : Nibble) :
    Inverts {q | SpriteCovers s x y n q.1 q.2} (s.fb, false) (s.drawSprite x y n) := by
  have hlen : (s.spriteRows n).length ≤ 32 := by
    rw [State.spriteRows, readBytes_length]
    omega
  rw [← rowsPixels_spriteRows]
  exact drawRows_inverts _ _ hlen _ _

theorem drawSprite_collides (s : State) (x y n : Nibble) :
    (s.drawSprite x y n).2 = true ↔ SpriteCollides s x y n := by
  rw [(drawSprite_inverts s x y n).collides]
  simp [SpriteCollides]

/-- Settles O55: in range the display and VF are those of the compositor, which inverts the pixels that the
sprite covers. -/
theorem drawInvertsCoveredPixels : Obligations.DrawInvertsCoveredPixels := by
  intro s x y n hin
  have hdraw := drawSprite_inverts s x y n
  have hrange : InRange s.i n.toNat := hin.imp_left (congrArg BitVec.toNat)
  refine ⟨_, guardRange_in hrange, fun px py => ⟨hdraw.covered (px, py), hdraw.kept (px, py)⟩,
    fun hcol => ?_, fun hcol => ?_, rfl, (frame_setFb_setV s _ vf _).advance⟩
  · rw [advance_getV, getV_setV_self, (drawSprite_collides s x y n).2 hcol]
    rfl
  · rw [advance_getV, getV_setV_self, Bool.eq_false_iff.2 (mt (drawSprite_collides s x y n).1 hcol)]
    rfl

/-! Drawing twice (R207). -/

/-- A draw moves neither the sprite nor its origin, unless a coordinate is in VF. -/
theorem spriteCovers_of_frame (h : Frame { fb := true, v := onlyV vf } s t) (hx : x ≠ vf) (hy : y ≠ vf)
    (px : Fin 64) (py : Fin 32) : SpriteCovers t x y n px py ↔ SpriteCovers s x y n px py := by
  have hvx : t.getV x = s.getV x := h.v x (beq_eq_false_iff_ne.2 hx)
  have hvy : t.getV y = s.getV y := h.v y (beq_eq_false_iff_ne.2 hy)
  simp only [SpriteCovers, h.cfg, h.i rfl, hvx, hvy, h.bytes _ rfl]

/-- Settles O56: the second draw (O55) covers the pixels that the first one inverted. -/
theorem drawTwiceRestoresDisplay : Obligations.DrawTwiceRestoresDisplay := by
  intro s x y n hx hy hin
  refine Completes.imp (drawInvertsCoveredPixels s x y n hin) fun t ⟨hfirst, _, _, _, hframe⟩ => ?_
  have hcovers := spriteCovers_of_frame (n := n) hframe hx hy
  refine Completes.imp (drawInvertsCoveredPixels t x y n (hframe.i rfl ▸ hin))
    fun u ⟨hsecond, hset, hclear, _, _⟩ => ⟨fb_ext fun px py => ?_, ?_⟩
  · by_cases hcov : SpriteCovers s x y n px py
    · rw [(hsecond px py).1 ((hcovers px py).2 hcov), (hfirst px py).1 hcov, Bool.not_not]
    · rw [(hsecond px py).2 (mt (hcovers px py).1 hcov), (hfirst px py).2 hcov]
  · have hflag : u.getV vf = 1 ↔ SpriteCollides t x y n :=
      ⟨fun h1 => by_contra fun hcol => absurd ((hclear hcol).symm.trans h1) (by decide), hset⟩
    rw [hflag]
    refine exists_congr fun px => exists_congr fun py => ?_
    rw [hcovers px py]
    refine and_congr_right fun hcov => ?_
    rw [(hfirst px py).1 hcov, Bool.not_eq_true']

end Sys2Proof.Machine
end

section
/-!
PROOF. The timer instructions (45_timers.md R221 to R223): one register write before `PC` each, of the
delay timer's value or of `V[x]`.
-/
namespace Sys2Proof.Machine

/-- Settles O57: the reads are of the state before the step, and the frames are those of the single writes. -/
theorem timerInstructionsMoveTimers : Obligations.TimerInstructionsMoveTimers := fun s _ =>
  ⟨completes_of_setV rfl,
    ⟨_, rfl, rfl, rfl, (frame_setDt s _).advance⟩,
    ⟨_, rfl, rfl, rfl, (frame_setSt s _).advance⟩⟩

end Sys2Proof.Machine
end

section
/-!
PROOF. The keypad instructions (46_keypad.md R231 to R233): the key that the low four bits name, and the
key that the scan finds first.
-/
namespace Sys2Proof.Machine
variable {s : State}

/-! The skips on a key (R231, R232). -/

theorem lowNibble_eq_of_toNat {b : Byte} {k : Nibble} (h : k.toNat = b.toNat % 16) : lowNibble b = k :=
  BitVec.eq_of_toNat_eq ((lowNibble_toNat b).trans h.symm)

theorem skipWhen_not_pc (s : State) (b : Bool) :
    (s.skipWhen (!b)).pc = if b then s.pc + 2 else s.pc + 4 := by
  cases b <;> simp

/-- Settles O58: the tested key is the low nibble of `V[x]`, and the two skips test it and its negation. -/
theorem keySkipsTestOneKey : Obligations.KeySkipsTestOneKey := by
  intro s x k hk
  obtain rfl : lowNibble (s.getV x) = k := lowNibble_eq_of_toNat hk
  exact ⟨⟨_, rfl, skipWhen_pc s _, frame_skipWhen _ s _⟩,
    ⟨_, rfl, skipWhen_not_pc s _, frame_skipWhen _ s _⟩⟩

/-! The key wait (R233). -/

/-- The scan meets the keys in their order: at place `j` it looks at key `j`. -/
theorem toNat_keyOrder_getElem : ∀ (j : Nat) (hj : j < keyOrder.length), keyOrder[j].toNat = j := by
  decide

/-- The scan ends at the key that is down with none below it down. -/
theorem lowestKey_eq_some {k : Nibble} (hdown : s.keyDown k = true)
    (hlow : ∀ j : Nibble, j.toNat < k.toNat → s.keyDown j = false) : s.lowestKey = some k := by
  have hplace : k.toNat < keyOrder.length := k.isLt
  have hfound : keyOrder[k.toNat] = k := BitVec.eq_of_toNat_eq (toNat_keyOrder_getElem _ hplace)
  refine List.find?_eq_some_iff_getElem.2 ⟨hdown, k.toNat, hplace, hfound, fun j hj => ?_⟩
  have hbelow : keyOrder[j].toNat < k.toNat := (toNat_keyOrder_getElem j _).trans_lt hj
  rw [hlow _ hbelow, Bool.not_false]

theorem execLdVxK_of_none (x : Nibble) (h : s.lowestKey = none) : execLdVxK x s = .next s := by
  rw [execLdVxK, h]

theorem execLdVxK_of_some (x : Nibble) {k : Nibble} (h : s.lowestKey = some k) :
    execLdVxK x s = .next (s.setV x (k.setWidth 8)).advance := by
  rw [execLdVxK, h]

/-- Settles O59: the scan finds no key, so that nothing is written, or the lowest key, which is the one
register write. -/
theorem waitForKeyTakesLowest : Obligations.WaitForKeyTakesLowest := by
  intro s x
  refine ⟨fun hnone => execLdVxK_of_none x (lowestKey_eq_none.2 hnone), fun k hdown hlow => ?_⟩
  have hexec : exec (.ldVxK x) s = .next (s.setV x (k.setWidth 8)).advance :=
    execLdVxK_of_some x (lowestKey_eq_some hdown hlow)
  refine (completes_of_setV hexec).imp fun _ ⟨hv, hrest⟩ => ⟨?_, hrest⟩
  rw [hv, BitVec.toNat_setWidth_of_le (by decide)]

end Sys2Proof.Machine
end

section
/-!
PROOF. Exceptions and the countdown (60_exceptions.md R245, R250 to R253, R262): which instructions can
raise, that a halt lasts until reset, and what a timer holds after any number of ticks.
-/
namespace Sys2Proof.Machine
variable {s t : State}

/-! The instructions that raise (R262). -/

/-- An instruction that leaves a running core halted has not kept to its frame, so it is one that can
raise. -/
theorem canRaise_of_exec_halts {i : Instr} (hrun : s.haltCause = .running) (ht : exec i s = .next t)
    (hhalt : t.halted) : canRaise i = true := by
  rcases exec_keepsFrame ht with hframe | ⟨hraise, -⟩
  · exact absurd (hframe.halt.1.trans hrun) hhalt
  · exact hraise

theorem eq_of_canRaise {i : Instr} (h : canRaise i = true) :
    i = .ret ∨ (∃ nnn, i = .call nnn) ∨ (∃ x y n, i = .drw x y n ∧ n ≠ 0) ∨
    (∃ x, i = .ldB x) ∨ (∃ x, i = .stRegs x) ∨ (∃ x, i = .ldRegs x) := by
  cases i with
  | ret => exact .inl rfl
  | call nnn => exact .inr (.inl ⟨nnn, rfl⟩)
  | drw x y n => exact .inr (.inr (.inl ⟨x, y, n, rfl, bne_iff_ne.1 h⟩))
  | ldB x => exact .inr (.inr (.inr (.inl ⟨x, rfl⟩)))
  | stRegs x => exact .inr (.inr (.inr (.inr (.inl ⟨x, rfl⟩))))
  | ldRegs x => exact .inr (.inr (.inr (.inr (.inr ⟨x, rfl⟩))))
  | _ => cases h

/-- Settles O11: an instruction that halts a running core can raise, and six can. -/
theorem onlySixInstructionsRaise : Obligations.OnlySixInstructionsRaise :=
  fun _ _ _ hrun ht hhalt => eq_of_canRaise (canRaise_of_exec_halts hrun ht hhalt)

/-! A halt lasts (R245). -/

/-- The event step(r) of a halted core changes nothing: the step does not, and the draws are put back. -/
theorem stepEvent_of_halted (h : s.halted) (r : Byte) : stepEvent r s = .next s := by
  rw [stepEvent, haltedStepChangesNothing { s with draws := [r] } h]

/-- Settles O16: in a halted core a step changes nothing, and no other event but reset writes a halt
register. -/
theorem haltLastsUntilReset : Obligations.HaltLastsUntilReset := by
  intro e s t hhalt hreset ht
  cases e with
  | step r =>
    obtain rfl := Host.Outcome.next.inj ((stepEvent_of_halted hhalt r).symm.trans ht)
    exact ⟨rfl, rfl, rfl⟩
  | tick =>
    obtain rfl := Host.Outcome.next.inj ht
    exact ⟨rfl, rfl, rfl⟩
  | setKey k p =>
    obtain rfl := setKeyEvent_eq_next ht
    exact ⟨rfl, rfl, rfl⟩
  | keyState k =>
    obtain rfl := keyStateEvent_eq_next ht
    exact ⟨rfl, rfl, rfl⟩
  | getFramebuffer =>
    obtain rfl := Host.Outcome.next.inj ht
    exact ⟨rfl, rfl, rfl⟩
  | loadProgram bytes =>
    obtain rfl := loadProgram_eq_next ht
    exact ⟨rfl, rfl, rfl⟩
  | reset => exact absurd rfl hreset

/-! The countdown (R250 to R253). -/

theorem countDown_iterate_toNat (n : Nat) (b : Byte) : (countDown^[n] b).toNat = b.toNat - n := by
  induction n with
  | zero => rfl
  | succ n ih => rw [Function.iterate_succ_apply', countDown_toNat, ih, Nat.sub_sub]

theorem dt_semiconj_tick : Function.Semiconj State.dt State.tick countDown := fun _ => rfl

theorem st_semiconj_tick : Function.Semiconj State.st State.tick countDown := fun _ => rfl

/-- Settles O24: on each timer `n` ticks act as `n` countdowns, by induction on `n`. -/
theorem ticksCountDownToZero : Obligations.TicksCountDownToZero := by
  intro s n
  have hdt : (State.tick^[n] s).dt = countDown^[n] s.dt := dt_semiconj_tick.iterate_right n s
  have hst : (State.tick^[n] s).st = countDown^[n] s.st := st_semiconj_tick.iterate_right n s
  rw [hdt, hst]
  exact ⟨countDown_iterate_toNat n s.dt, countDown_iterate_toNat n s.st⟩

end Sys2Proof.Machine
end
